-- ==== Sys2Proof/Word.lean ====
section
/-!
DEFINITION. The word types of the block (00_scope.md R1, 30_encoding.md R60, R62): bytes, the 16-, 32-
and 64-bit descriptor fields, and the 384-bit descriptor.
-/

namespace Sys2Proof

/-- A byte (00_scope.md section 6.1). -/
abbrev Byte := BitVec 8

/-- A 16-bit field: ACKID_W, PKTID_W, IDENT_W, FRAGOFF_W of R1 and the three 16-bit header fields of R10. -/
abbrev Half := BitVec 16

/-- A 32-bit word: ADDR_W and HANDLE_W of R1, and the operands `arg` and `arg2`. -/
abbrev Word := BitVec 32

/-- A 64-bit field: `now`, a duration, `val` and `val2` of a response. -/
abbrev Dword := BitVec 64

/-- One command descriptor as the 384-bit string of R60: byte `D[0]` is bits 383:376, `D[47]` bits 7:0. -/
abbrev Desc := BitVec 384

end Sys2Proof
end

