-- ==== Sys2Proof/Config.lean ====
section
/-!
DEFINITION. What an instance of the block fixes (00_scope.md R1) and the one value the spec leaves
free (93_implementation_defined.md U1).
-/

namespace Sys2Proof

/-- The values of the OPEN parameter PB_LOOKUP_KEY (R1, 92_eei_decisions.md D26): the entry field that
PB.DEQ and PB.FIND compare. -/
inductive LookupKey where
  | nextHop
  | destination
  deriving DecidableEq, Repr

/-- The parameters of R1 that an instance may choose. The fixed ones (OPT_BASE, FIXED_SIZE,
STREAM_ALIGN, the field widths) are constants and types. The default of a field is R1's value column. -/
structure Params where
  /-- PAD1_TYPE, the type tag of the one-byte filler. -/
  pad1Type : Byte := 1
  /-- PADN_TYPE, the type tag of the longer filler. -/
  padNType : Byte := 0
  /-- WB_SIZE, the bytes in the wire buffer. -/
  wbSize : Nat := 131072
  /-- OSB_CAP, the capacity of the option stream buffer in bytes. -/
  osbCap : Nat := 65535
  /-- MB_SLOTS. -/
  mbSlots : Nat := 64
  /-- PB_SLOTS. -/
  pbSlots : Nat := 64
  /-- NQ_SLOTS. -/
  nqSlots : Nat := 64
  /-- PB_LOOKUP_KEY (OPEN, D26). -/
  pbLookupKey : LookupKey := .nextHop
  /-- PB_EXACT_DUP_REJECT (OPEN, D27). -/
  pbExactDupReject : Bool := false
  deriving DecidableEq, Repr

/-- The instance with every parameter at the value of R1's table. -/
def Params.default : Params := {}

/-- The constraints column of R1: an instance is well formed. -/
abbrev Params.wf (p : Params) : Prop :=
  p.padNType ≠ p.pad1Type ∧
  16 ≤ p.wbSize ∧ p.wbSize ≤ 2 ^ 32 ∧
  4 ≤ p.osbCap ∧ p.osbCap ≤ 2 ^ 32 - 4 ∧
  1 ≤ p.mbSlots ∧ p.mbSlots < 2 ^ 32 ∧
  1 ≤ p.pbSlots ∧ p.pbSlots < 2 ^ 32 ∧
  1 ≤ p.nqSlots ∧ p.nqSlots < 2 ^ 32

/-- OPT_BASE (R1): the offset of the option stream from the start of the enclosing header, always 8. -/
def optBase : Nat := 8

/-- FIXED_SIZE (R1): the serialized size of the FixedHeader, always 8. -/
def fixedSize : Nat := 8

/-- STREAM_ALIGN (R1): the alignment (factor, offset) of the end of the stream, always (4, 0). -/
def streamAlign : Nat × Nat := (4, 0)

/-- FREE VALUE (10_state.md R33, 70_reset_and_hazards.md R232, 93_implementation_defined.md U1): what the
wire-buffer byte at an address holds from power-on until a command writes it. It has no value that a
proof can see: a claim that depends on such a byte holds for every content of WB at power-on. -/
opaque Config.wbPowerOn : Nat → Byte

end Sys2Proof
end

