-- ==== Sys2Proof/Machine/State.lean ====
section
/-!
DEFINITION. The architectural state (10_state.md), the response and event records (30_encoding.md R68 to
R70), the reasons a step could stop, and the state after power-on reset (R33).
-/

namespace Sys2Proof.Machine

/-- The FixedHeader as five scalar registers (R10). -/
structure Header where
  nextHeader : Byte := 0
  messageType : Byte := 0
  sourceId : Half := 0
  destId : Half := 0
  payloadLen : Half := 0
  deriving DecidableEq, Repr

/-- A maintenance entry (R14). `deadline` is the absolute deadline of R16, an exact integer. -/
structure MaintEntry where
  pkt : Word
  our : Word
  nhop : Word
  src : Word
  dst : Word
  ack : Half
  seg : Byte
  deadline : Int
  deriving DecidableEq, Repr

/-- A passive entry (R17). -/
structure PassiveEntry where
  pkt : Word
  pid : Half
  src : Word
  dst : Word
  nhop : Word
  ident : Half
  foff : Half
  seg : Byte
  deadline : Int
  deriving DecidableEq, Repr

/-- A network-queue entry (R19). `ts` is the `now` of the NQ.ENQ that stored it. -/
structure QueueEntry where
  pkt : Word
  nhop : Word
  ts : Dword
  deriving DecidableEq, Repr

/-- The status of a response: exactly the eight values of R200 (93_implementation_defined.md U21). -/
inductive Status where
  | ok
  | errIllegal
  | errHalted
  | errArg
  | errBounds
  | errOverflow
  | errTrunc
  | faultWireBounds
  deriving DecidableEq, Repr

/-- The entry a dequeue-type command removed and hands over (R69). -/
inductive Entry where
  | maint (e : MaintEntry)
  | passive (e : PassiveEntry)
  | queue (e : QueueEntry)
  deriving DecidableEq, Repr

/-- The response record (R68); a field that is not given is 0 or absent. -/
structure Response where
  status : Status := .ok
  flag : Bool := false
  val : Dword := 0
  val2 : Dword := 0
  entry : Option Entry := none
  deriving DecidableEq, Repr

/-- The cause of an EV_DROP (R70): 1 = EXPIRED, 2 = CAPACITY. -/
inductive DropCause where
  | expired
  | capacity
  deriving DecidableEq, Repr

/-- An event (R70). -/
inductive Event where
  | drop (cause : DropCause) (e : PassiveEntry)
  | dropLink (pkt src nhop : Word)
  deriving DecidableEq, Repr

/-- The wire buffer WB (R13): the bytes that commands have written, as (address, byte) pairs with the
addresses strictly rising. An address that is not listed still holds its power-on value, of which the
list says nothing (log 4). -/
abbrev Memory := List Host.Cell

/-- The canonical form of WB on an instance with `size` bytes: addresses strictly rising, each of them
inside WB. (An unlisted address has no value here, so no entry can equal it.) -/
abbrev Memory.wf (size : Nat) (m : Memory) : Prop :=
  m.Pairwise (fun c c' => c.1 < c'.1) ∧ ∀ c ∈ m, c.1 < size

/-- Host-level faults. There is none: each refusal and the fault of 60_exceptions.md R200 to R207 is an
outcome after which the block goes on, so it is a next state (log 12). -/
inductive Fault where
  deriving DecidableEq, Repr

/-- Host-level refusals. -/
inductive Refusal where
  /-- An instruction without a meaning. No arm of `exec` raises it: every command is modelled. Safe. -/
  | notModelled (mnemonic : String)
  deriving DecidableEq, Repr

/-- The state of the block, all of it and nothing else (10_state.md R10 to R27): the `State` of R3's exec. It
holds no parameter, no clock, no descriptor, no response, no event list, no size counter, no trailing pad and
no host identity (R29). -/
structure Block where
  /-- H.nextHeader .. H.payloadLen (R10). -/
  hdr : Header
  /-- OSB, the raw option stream without its trailing pad (R11). -/
  osb : List Byte
  /-- WB (R13). -/
  wb : Memory
  /-- MB, oldest first (R15). -/
  mb : List MaintEntry
  /-- PB, oldest first (R18). -/
  pb : List PassiveEntry
  /-- NQ, oldest first (R20). -/
  nq : List QueueEntry
  /-- MB_MAXLEN (R24). -/
  mbMaxLen : Word
  /-- MB_TIMEOUT, two's complement (R24). -/
  mbTimeout : Dword
  /-- PB_MAXLEN (R25). -/
  pbMaxLen : Word
  /-- PB_TIMEOUT, two's complement (R25). -/
  pbTimeout : Dword
  /-- NQ_MAXSIZE (R26). -/
  nqMaxSize : Word
  /-- NQ_MAXDELAY, two's complement (R26). -/
  nqMaxDelay : Dword
  /-- STATUS.FAULT (R27). -/
  fault : Bool
  /-- FCAUSE (R27). -/
  fcause : Byte
  /-- FINFO (R27). -/
  finfo : Word
  deriving DecidableEq, Repr

/-- The host's side of the block: what it is about to present, and what the last command handed to it, which
the host owns from then on (R29). -/
structure HostSide where
  /-- The descriptors the host will present, the next one first (R2, R31; log 3). -/
  input : List Desc
  /-- The response of the last command (R68; log 2). -/
  resp : Response
  /-- The event list of the last command (R70; log 2). -/
  events : List Event
  deriving DecidableEq, Repr

/-- What one step maps to its successor: the block, its host's side, and the instance. The block's own state is
the `Block` alone; the rest carries the other arguments and results of R3's exec, for which the shape of the
step has no other place (logs 1 to 3). -/
structure State extends Block, HostSide where
  /-- The instance's parameters (R1): constant, no command writes them (log 1). -/
  params : Params
  deriving DecidableEq, Repr

/-- The block right after power-on (R33, R230). WB lists no byte: each holds its free power-on value. -/
def Block.powerOn (p : Params) : Block where
  hdr := {}
  osb := []
  wb := []
  mb := []
  pb := []
  nq := []
  mbMaxLen := BitVec.ofNat 32 p.mbSlots
  mbTimeout := 0
  pbMaxLen := BitVec.ofNat 32 p.pbSlots
  pbTimeout := 0
  nqMaxSize := BitVec.ofNat 32 p.nqSlots
  nqMaxDelay := 0
  fault := false
  fcause := 0
  finfo := 0

/-- An instance right after power-on: no descriptor presented yet, and no response handed over. -/
def State.powerOn (p : Params) : State where
  toBlock := Block.powerOn p
  input := []
  resp := {}
  events := []
  params := p

/-- The machine right after reset: the instance with R1's values at power-on. -/
def State.reset : State := State.powerOn Params.default

end Sys2Proof.Machine
end

