-- ==== Sys2Proof/Machine/Operands.lean ====
section
/-!
DEFINITION. Operand assembly (30_encoding.md R65): how the bits of the descriptor fields become the
operands of a command. Opaque fields (`pkt` and the addresses), wire addresses, lengths, indexes,
selectors and sizes are the unsigned number their bits spell and need no operation.
-/

namespace Sys2Proof.Machine

/-- A legal `now` is below 2^63 (R65); any other is refused with ERR_ARG (60_exceptions.md R205). -/
def nowLegal (now : Dword) : Bool := decide (now.toNat < 2 ^ 63)

/-- A duration is `arg : arg2`, `arg` the high word; the register keeps the 64-bit pattern. -/
def durationBits (arg arg2 : Word) : Dword := arg ++ arg2

/-- A duration register as the two's complement integer it stands for (`s64`). -/
def duration (r : Dword) : Int := r.toInt

/-- The deadline of an entry enqueued at `now` (10_state.md R16): exact, no wrap-around. -/
def deadlineAt (now : Dword) (timeout : Dword) : Int := (now.toNat : Int) + duration timeout

/-- The byte operand of WB.WRITE is `arg2`, at most 255. -/
def byteOperand (arg2 : Word) : Option Byte :=
  if arg2.toNat ≤ 255 then some (arg2.setWidth 8) else none

/-- A numeric result as the 64-bit field `val` (R68); R66 keeps every result below 2^64. -/
def result (n : Nat) : Dword := BitVec.ofNat 64 n

end Sys2Proof.Machine
end

