-- ==== Sys2Proof/Syntax.lean ====
section
/-!
DEFINITION. The commands (30_encoding.md R63): one constructor per row of spec/opcode_table.json, each
operand a descriptor field at the width of R62, in the order of the row's "fields used" column.
-/

namespace Sys2Proof

/-- One command. "Instruction" reads "command" throughout (00_scope.md section 1). -/
inductive Instr where
  -- 40_system_wire.md
  | sysReset
  | sysStatus
  | cfgGet (arg : Word)
  | wbWrite (arg arg2 : Word)
  | wbRead (arg : Word)
  -- 41_option_codec.md
  | ofClear
  | ofCalcpad (afac aoff : Byte)
  | ofAppend (afac aoff otype olen : Byte) (arg : Word)
  | ofSize
  | ofSerialize (arg : Word)
  | ofDeserialize (arg arg2 : Word)
  | ofRead (arg : Word)
  | optDecode (arg : Word)
  -- 42_routing_header.md
  | hdrSet (sid did plen : Half) (nh mt : Byte)
  | hdrGet
  | hdrSize
  | hdrSerialize (arg : Word)
  | hdrDeserialize (arg : Word)
  -- 43_maintenance_buffer.md
  | mbEnq (seg : Byte) (now : Dword) (pkt our nhop src dst : Word) (ida : Half)
  | mbDeq (now : Dword) (nhop : Word)
  | mbFind (nhop : Word)
  | mbDropnh (now : Dword) (nhop : Word)
  | mbAlleq (seg : Byte) (our nhop src dst : Word) (ida : Half)
  | mbNeteq (our nhop src dst : Word) (ida : Half)
  | mbPromeq (seg : Byte) (src dst : Word) (ida : Half)
  | mbLinkeq (our nhop src dst : Word)
  | mbPurge (now : Dword)
  | mbSize (now : Dword)
  | mbSetmaxlen (arg : Word)
  | mbSettimeout (arg arg2 : Word)
  -- 44_passive_buffer.md
  | pbEnq (seg : Byte) (now : Dword) (pkt nhop src dst : Word) (ida idb foff : Half)
  | pbDeq (now : Dword) (nhop : Word)
  | pbFind (nhop : Word)
  | pbAlleq (seg : Byte) (nhop src dst : Word) (ida idb foff : Half)
  | pbPurge (now : Dword)
  | pbSize (now : Dword)
  | pbSetmaxlen (arg : Word)
  | pbSettimeout (arg arg2 : Word)
  | pbDroplink (pkt nhop src : Word)
  -- 45_network_queue.md
  | nqEnq (now : Dword) (pkt nhop : Word)
  | nqDeq (now : Dword)
  | nqFind (nhop : Word)
  | nqFindpop (nhop : Word)
  | nqFlush
  | nqCleanup (now : Dword)
  | nqSize (now : Dword)
  | nqSetmaxsize (arg : Word)
  | nqSetmaxdelay (arg arg2 : Word)
  deriving DecidableEq, Repr

/-- The mnemonic of a command, as spec/opcode_table.json spells it. -/
def Instr.mnemonic : Instr → String
  | .sysReset => "SYS.RESET"
  | .sysStatus => "SYS.STATUS"
  | .cfgGet .. => "CFG.GET"
  | .wbWrite .. => "WB.WRITE"
  | .wbRead .. => "WB.READ"
  | .ofClear => "OF.CLEAR"
  | .ofCalcpad .. => "OF.CALCPAD"
  | .ofAppend .. => "OF.APPEND"
  | .ofSize => "OF.SIZE"
  | .ofSerialize .. => "OF.SERIALIZE"
  | .ofDeserialize .. => "OF.DESERIALIZE"
  | .ofRead .. => "OF.READ"
  | .optDecode .. => "OPT.DECODE"
  | .hdrSet .. => "HDR.SET"
  | .hdrGet => "HDR.GET"
  | .hdrSize => "HDR.SIZE"
  | .hdrSerialize .. => "HDR.SERIALIZE"
  | .hdrDeserialize .. => "HDR.DESERIALIZE"
  | .mbEnq .. => "MB.ENQ"
  | .mbDeq .. => "MB.DEQ"
  | .mbFind .. => "MB.FIND"
  | .mbDropnh .. => "MB.DROPNH"
  | .mbAlleq .. => "MB.ALLEQ"
  | .mbNeteq .. => "MB.NETEQ"
  | .mbPromeq .. => "MB.PROMEQ"
  | .mbLinkeq .. => "MB.LINKEQ"
  | .mbPurge .. => "MB.PURGE"
  | .mbSize .. => "MB.SIZE"
  | .mbSetmaxlen .. => "MB.SETMAXLEN"
  | .mbSettimeout .. => "MB.SETTIMEOUT"
  | .pbEnq .. => "PB.ENQ"
  | .pbDeq .. => "PB.DEQ"
  | .pbFind .. => "PB.FIND"
  | .pbAlleq .. => "PB.ALLEQ"
  | .pbPurge .. => "PB.PURGE"
  | .pbSize .. => "PB.SIZE"
  | .pbSetmaxlen .. => "PB.SETMAXLEN"
  | .pbSettimeout .. => "PB.SETTIMEOUT"
  | .pbDroplink .. => "PB.DROPLINK"
  | .nqEnq .. => "NQ.ENQ"
  | .nqDeq .. => "NQ.DEQ"
  | .nqFind .. => "NQ.FIND"
  | .nqFindpop .. => "NQ.FINDPOP"
  | .nqFlush => "NQ.FLUSH"
  | .nqCleanup .. => "NQ.CLEANUP"
  | .nqSize .. => "NQ.SIZE"
  | .nqSetmaxsize .. => "NQ.SETMAXSIZE"
  | .nqSetmaxdelay .. => "NQ.SETMAXDELAY"

end Sys2Proof
end

