-- ==== Sys2Proof/Decode.lean ====
section
/-!
DEFINITION. The descriptor encoding (30_encoding.md R60 to R65, R73, R84): the fields of a descriptor,
the decoder, total on every descriptor and on every byte sequence, and the encoder.
-/

namespace Sys2Proof

/-- Bytes as one number, the first byte most significant (`from_be` of 00_scope.md section 6.1). -/
def fromBe (bs : List Byte) : Nat := bs.foldl (fun n b => n * 256 + b.toNat) 0

/-- The low `n` bytes of a number, the most significant first (`be16`, `be32`, `be64` of 00_scope.md
section 6.1 at any length). -/
def toBe : Nat → Nat → List Byte
  | 0, _ => []
  | n + 1, v => toBe n (v / 256) ++ [BitVec.ofNat 8 v]

/-- The fields of R62: the sixteen operand positions of R61 and the opcode, which cover all 384 bits.
HDR.SET uses `ida`, `idb`, `foff`, `otype`, `olen` under the names sid, did, plen, nh, mt. -/
structure Fields where
  op : Byte := 0
  seg : Byte := 0
  afac : Byte := 0
  aoff : Byte := 0
  now : Dword := 0
  pkt : Word := 0
  our : Word := 0
  nhop : Word := 0
  src : Word := 0
  dst : Word := 0
  ida : Half := 0
  idb : Half := 0
  foff : Half := 0
  otype : Byte := 0
  olen : Byte := 0
  arg : Word := 0
  arg2 : Word := 0
  deriving DecidableEq, Repr

/-- The fields of a descriptor (R61, R62): word `Wk` is bits `383-32k : 352-32k` of the 384-bit string. -/
def Fields.ofDesc (d : Desc) : Fields where
  op := d.extractLsb' 376 8
  seg := d.extractLsb' 368 8
  afac := d.extractLsb' 360 8
  aoff := d.extractLsb' 352 8
  now := d.extractLsb' 288 64
  pkt := d.extractLsb' 256 32
  our := d.extractLsb' 224 32
  nhop := d.extractLsb' 192 32
  src := d.extractLsb' 160 32
  dst := d.extractLsb' 128 32
  ida := d.extractLsb' 112 16
  idb := d.extractLsb' 96 16
  foff := d.extractLsb' 80 16
  otype := d.extractLsb' 72 8
  olen := d.extractLsb' 64 8
  arg := d.extractLsb' 32 32
  arg2 := d.extractLsb' 0 32

/-- Why a descriptor is illegal (R73). -/
inductive DecodeError where
  /-- The byte sequence is not one descriptor of 48 bytes (R60). -/
  | wrongLength (n : Nat)
  /-- (a) the opcode is not one of the 48 of R63. -/
  | unknownOpcode (op : Byte)
  /-- (b) a bit that R64 reserves for this command is 1. -/
  | reservedBit (mnemonic : String)
  deriving DecidableEq, Repr

/-- A row of R63 selects its command iff every bit outside `op` and the fields it uses is 0 (R64): the
fields equal `allowed`, in which exactly those survive. -/
def Fields.selects (f allowed : Fields) (mnemonic : String) (i : Instr) : Except DecodeError Instr :=
  if f = allowed then .ok i else .error (.reservedBit mnemonic)

/-- R84 on the fields: look `op` up in R63, test the reserved bits, extract the used fields. -/
def decodeFields (f : Fields) : Except DecodeError Instr :=
  match f.op with
  | 0x01#8 => f.selects { op := 0x01 } "SYS.RESET" .sysReset
  | 0x02#8 => f.selects { op := 0x02 } "SYS.STATUS" .sysStatus
  | 0x03#8 => f.selects { op := 0x03, arg := f.arg } "CFG.GET" (.cfgGet f.arg)
  | 0x08#8 => f.selects { op := 0x08, arg := f.arg, arg2 := f.arg2 } "WB.WRITE" (.wbWrite f.arg f.arg2)
  | 0x09#8 => f.selects { op := 0x09, arg := f.arg } "WB.READ" (.wbRead f.arg)
  | 0x10#8 => f.selects { op := 0x10 } "OF.CLEAR" .ofClear
  | 0x11#8 => f.selects { op := 0x11, afac := f.afac, aoff := f.aoff } "OF.CALCPAD" (.ofCalcpad f.afac f.aoff)
  | 0x12#8 => f.selects { op := 0x12, afac := f.afac, aoff := f.aoff, otype := f.otype, olen := f.olen, arg := f.arg } "OF.APPEND" (.ofAppend f.afac f.aoff f.otype f.olen f.arg)
  | 0x13#8 => f.selects { op := 0x13 } "OF.SIZE" .ofSize
  | 0x14#8 => f.selects { op := 0x14, arg := f.arg } "OF.SERIALIZE" (.ofSerialize f.arg)
  | 0x15#8 => f.selects { op := 0x15, arg := f.arg, arg2 := f.arg2 } "OF.DESERIALIZE" (.ofDeserialize f.arg f.arg2)
  | 0x16#8 => f.selects { op := 0x16, arg := f.arg } "OF.READ" (.ofRead f.arg)
  | 0x17#8 => f.selects { op := 0x17, arg := f.arg } "OPT.DECODE" (.optDecode f.arg)
  | 0x18#8 => f.selects { op := 0x18, ida := f.ida, idb := f.idb, foff := f.foff, otype := f.otype, olen := f.olen } "HDR.SET" (.hdrSet f.ida f.idb f.foff f.otype f.olen)
  | 0x19#8 => f.selects { op := 0x19 } "HDR.GET" .hdrGet
  | 0x1A#8 => f.selects { op := 0x1A } "HDR.SIZE" .hdrSize
  | 0x1B#8 => f.selects { op := 0x1B, arg := f.arg } "HDR.SERIALIZE" (.hdrSerialize f.arg)
  | 0x1C#8 => f.selects { op := 0x1C, arg := f.arg } "HDR.DESERIALIZE" (.hdrDeserialize f.arg)
  | 0x20#8 => f.selects { op := 0x20, seg := f.seg, now := f.now, pkt := f.pkt, our := f.our, nhop := f.nhop, src := f.src, dst := f.dst, ida := f.ida } "MB.ENQ" (.mbEnq f.seg f.now f.pkt f.our f.nhop f.src f.dst f.ida)
  | 0x21#8 => f.selects { op := 0x21, now := f.now, nhop := f.nhop } "MB.DEQ" (.mbDeq f.now f.nhop)
  | 0x22#8 => f.selects { op := 0x22, nhop := f.nhop } "MB.FIND" (.mbFind f.nhop)
  | 0x23#8 => f.selects { op := 0x23, now := f.now, nhop := f.nhop } "MB.DROPNH" (.mbDropnh f.now f.nhop)
  | 0x24#8 => f.selects { op := 0x24, seg := f.seg, our := f.our, nhop := f.nhop, src := f.src, dst := f.dst, ida := f.ida } "MB.ALLEQ" (.mbAlleq f.seg f.our f.nhop f.src f.dst f.ida)
  | 0x25#8 => f.selects { op := 0x25, our := f.our, nhop := f.nhop, src := f.src, dst := f.dst, ida := f.ida } "MB.NETEQ" (.mbNeteq f.our f.nhop f.src f.dst f.ida)
  | 0x26#8 => f.selects { op := 0x26, seg := f.seg, src := f.src, dst := f.dst, ida := f.ida } "MB.PROMEQ" (.mbPromeq f.seg f.src f.dst f.ida)
  | 0x27#8 => f.selects { op := 0x27, our := f.our, nhop := f.nhop, src := f.src, dst := f.dst } "MB.LINKEQ" (.mbLinkeq f.our f.nhop f.src f.dst)
  | 0x28#8 => f.selects { op := 0x28, now := f.now } "MB.PURGE" (.mbPurge f.now)
  | 0x29#8 => f.selects { op := 0x29, now := f.now } "MB.SIZE" (.mbSize f.now)
  | 0x2A#8 => f.selects { op := 0x2A, arg := f.arg } "MB.SETMAXLEN" (.mbSetmaxlen f.arg)
  | 0x2B#8 => f.selects { op := 0x2B, arg := f.arg, arg2 := f.arg2 } "MB.SETTIMEOUT" (.mbSettimeout f.arg f.arg2)
  | 0x30#8 => f.selects { op := 0x30, seg := f.seg, now := f.now, pkt := f.pkt, nhop := f.nhop, src := f.src, dst := f.dst, ida := f.ida, idb := f.idb, foff := f.foff } "PB.ENQ" (.pbEnq f.seg f.now f.pkt f.nhop f.src f.dst f.ida f.idb f.foff)
  | 0x31#8 => f.selects { op := 0x31, now := f.now, nhop := f.nhop } "PB.DEQ" (.pbDeq f.now f.nhop)
  | 0x32#8 => f.selects { op := 0x32, nhop := f.nhop } "PB.FIND" (.pbFind f.nhop)
  | 0x34#8 => f.selects { op := 0x34, seg := f.seg, nhop := f.nhop, src := f.src, dst := f.dst, ida := f.ida, idb := f.idb, foff := f.foff } "PB.ALLEQ" (.pbAlleq f.seg f.nhop f.src f.dst f.ida f.idb f.foff)
  | 0x38#8 => f.selects { op := 0x38, now := f.now } "PB.PURGE" (.pbPurge f.now)
  | 0x39#8 => f.selects { op := 0x39, now := f.now } "PB.SIZE" (.pbSize f.now)
  | 0x3A#8 => f.selects { op := 0x3A, arg := f.arg } "PB.SETMAXLEN" (.pbSetmaxlen f.arg)
  | 0x3B#8 => f.selects { op := 0x3B, arg := f.arg, arg2 := f.arg2 } "PB.SETTIMEOUT" (.pbSettimeout f.arg f.arg2)
  | 0x3C#8 => f.selects { op := 0x3C, pkt := f.pkt, nhop := f.nhop, src := f.src } "PB.DROPLINK" (.pbDroplink f.pkt f.nhop f.src)
  | 0x40#8 => f.selects { op := 0x40, now := f.now, pkt := f.pkt, nhop := f.nhop } "NQ.ENQ" (.nqEnq f.now f.pkt f.nhop)
  | 0x41#8 => f.selects { op := 0x41, now := f.now } "NQ.DEQ" (.nqDeq f.now)
  | 0x42#8 => f.selects { op := 0x42, nhop := f.nhop } "NQ.FIND" (.nqFind f.nhop)
  | 0x43#8 => f.selects { op := 0x43, nhop := f.nhop } "NQ.FINDPOP" (.nqFindpop f.nhop)
  | 0x44#8 => f.selects { op := 0x44 } "NQ.FLUSH" .nqFlush
  | 0x48#8 => f.selects { op := 0x48, now := f.now } "NQ.CLEANUP" (.nqCleanup f.now)
  | 0x49#8 => f.selects { op := 0x49, now := f.now } "NQ.SIZE" (.nqSize f.now)
  | 0x4A#8 => f.selects { op := 0x4A, arg := f.arg } "NQ.SETMAXSIZE" (.nqSetmaxsize f.arg)
  | 0x4B#8 => f.selects { op := 0x4B, arg := f.arg, arg2 := f.arg2 } "NQ.SETMAXDELAY" (.nqSetmaxdelay f.arg f.arg2)
  | op => .error (.unknownOpcode op)

/-- The command a descriptor selects, or why it is illegal (R84). It looks at no state. -/
def decode (d : Desc) : Except DecodeError Instr := decodeFields (Fields.ofDesc d)

/-- The 48 bytes `D[0] .. D[47]` of a descriptor (R60). -/
def descBytes (d : Desc) : List Byte := toBe 48 d.toNat

/-- The decoder on bytes: a descriptor is exactly 48 bytes (R60). -/
def decodeBytes (bs : List Byte) : Except DecodeError Instr :=
  if bs.length = 48 then decode (BitVec.ofNat 384 (fromBe bs)) else .error (.wrongLength bs.length)

/-- The decoder on an instruction numbered as spec/opcode_table.json numbers its bits: `match` and `mask`
are read as one number whose bit 0 is bit 0 of `D`, so the opcode is bits 383:376 and the number's most
significant byte is `D[0]`, the byte at the lowest address (log 5). -/
def decodeTableWord (nbits w : Nat) : Option Instr :=
  match decode (BitVec.ofNat 384 (w % 2 ^ nbits)) with
  | .ok i => some i
  | .error _ => none

/-! ## The encoder -/

/-- The opcode of a command (R63). -/
def Instr.opcode : Instr → Byte
  | .sysReset => 0x01
  | .sysStatus => 0x02
  | .cfgGet .. => 0x03
  | .wbWrite .. => 0x08
  | .wbRead .. => 0x09
  | .ofClear => 0x10
  | .ofCalcpad .. => 0x11
  | .ofAppend .. => 0x12
  | .ofSize => 0x13
  | .ofSerialize .. => 0x14
  | .ofDeserialize .. => 0x15
  | .ofRead .. => 0x16
  | .optDecode .. => 0x17
  | .hdrSet .. => 0x18
  | .hdrGet => 0x19
  | .hdrSize => 0x1A
  | .hdrSerialize .. => 0x1B
  | .hdrDeserialize .. => 0x1C
  | .mbEnq .. => 0x20
  | .mbDeq .. => 0x21
  | .mbFind .. => 0x22
  | .mbDropnh .. => 0x23
  | .mbAlleq .. => 0x24
  | .mbNeteq .. => 0x25
  | .mbPromeq .. => 0x26
  | .mbLinkeq .. => 0x27
  | .mbPurge .. => 0x28
  | .mbSize .. => 0x29
  | .mbSetmaxlen .. => 0x2A
  | .mbSettimeout .. => 0x2B
  | .pbEnq .. => 0x30
  | .pbDeq .. => 0x31
  | .pbFind .. => 0x32
  | .pbAlleq .. => 0x34
  | .pbPurge .. => 0x38
  | .pbSize .. => 0x39
  | .pbSetmaxlen .. => 0x3A
  | .pbSettimeout .. => 0x3B
  | .pbDroplink .. => 0x3C
  | .nqEnq .. => 0x40
  | .nqDeq .. => 0x41
  | .nqFind .. => 0x42
  | .nqFindpop .. => 0x43
  | .nqFlush => 0x44
  | .nqCleanup .. => 0x48
  | .nqSize .. => 0x49
  | .nqSetmaxsize .. => 0x4A
  | .nqSetmaxdelay .. => 0x4B

/-- The fields of a command's descriptor (R62, R63): the opcode, the operands, and 0 in every other bit
(R64). -/
def encodeFields : Instr → Fields
  | .sysReset => { op := 0x01 }
  | .sysStatus => { op := 0x02 }
  | .cfgGet arg => { op := 0x03, arg := arg }
  | .wbWrite arg arg2 => { op := 0x08, arg := arg, arg2 := arg2 }
  | .wbRead arg => { op := 0x09, arg := arg }
  | .ofClear => { op := 0x10 }
  | .ofCalcpad afac aoff => { op := 0x11, afac := afac, aoff := aoff }
  | .ofAppend afac aoff otype olen arg => { op := 0x12, afac := afac, aoff := aoff, otype := otype, olen := olen, arg := arg }
  | .ofSize => { op := 0x13 }
  | .ofSerialize arg => { op := 0x14, arg := arg }
  | .ofDeserialize arg arg2 => { op := 0x15, arg := arg, arg2 := arg2 }
  | .ofRead arg => { op := 0x16, arg := arg }
  | .optDecode arg => { op := 0x17, arg := arg }
  | .hdrSet sid did plen nh mt => { op := 0x18, ida := sid, idb := did, foff := plen, otype := nh, olen := mt }
  | .hdrGet => { op := 0x19 }
  | .hdrSize => { op := 0x1A }
  | .hdrSerialize arg => { op := 0x1B, arg := arg }
  | .hdrDeserialize arg => { op := 0x1C, arg := arg }
  | .mbEnq seg now pkt our nhop src dst ida => { op := 0x20, seg := seg, now := now, pkt := pkt, our := our, nhop := nhop, src := src, dst := dst, ida := ida }
  | .mbDeq now nhop => { op := 0x21, now := now, nhop := nhop }
  | .mbFind nhop => { op := 0x22, nhop := nhop }
  | .mbDropnh now nhop => { op := 0x23, now := now, nhop := nhop }
  | .mbAlleq seg our nhop src dst ida => { op := 0x24, seg := seg, our := our, nhop := nhop, src := src, dst := dst, ida := ida }
  | .mbNeteq our nhop src dst ida => { op := 0x25, our := our, nhop := nhop, src := src, dst := dst, ida := ida }
  | .mbPromeq seg src dst ida => { op := 0x26, seg := seg, src := src, dst := dst, ida := ida }
  | .mbLinkeq our nhop src dst => { op := 0x27, our := our, nhop := nhop, src := src, dst := dst }
  | .mbPurge now => { op := 0x28, now := now }
  | .mbSize now => { op := 0x29, now := now }
  | .mbSetmaxlen arg => { op := 0x2A, arg := arg }
  | .mbSettimeout arg arg2 => { op := 0x2B, arg := arg, arg2 := arg2 }
  | .pbEnq seg now pkt nhop src dst ida idb foff => { op := 0x30, seg := seg, now := now, pkt := pkt, nhop := nhop, src := src, dst := dst, ida := ida, idb := idb, foff := foff }
  | .pbDeq now nhop => { op := 0x31, now := now, nhop := nhop }
  | .pbFind nhop => { op := 0x32, nhop := nhop }
  | .pbAlleq seg nhop src dst ida idb foff => { op := 0x34, seg := seg, nhop := nhop, src := src, dst := dst, ida := ida, idb := idb, foff := foff }
  | .pbPurge now => { op := 0x38, now := now }
  | .pbSize now => { op := 0x39, now := now }
  | .pbSetmaxlen arg => { op := 0x3A, arg := arg }
  | .pbSettimeout arg arg2 => { op := 0x3B, arg := arg, arg2 := arg2 }
  | .pbDroplink pkt nhop src => { op := 0x3C, pkt := pkt, nhop := nhop, src := src }
  | .nqEnq now pkt nhop => { op := 0x40, now := now, pkt := pkt, nhop := nhop }
  | .nqDeq now => { op := 0x41, now := now }
  | .nqFind nhop => { op := 0x42, nhop := nhop }
  | .nqFindpop nhop => { op := 0x43, nhop := nhop }
  | .nqFlush => { op := 0x44 }
  | .nqCleanup now => { op := 0x48, now := now }
  | .nqSize now => { op := 0x49, now := now }
  | .nqSetmaxsize arg => { op := 0x4A, arg := arg }
  | .nqSetmaxdelay arg arg2 => { op := 0x4B, arg := arg, arg2 := arg2 }

/-- The descriptor with the given fields (R61): W0 first. -/
def Fields.toDesc (f : Fields) : Desc :=
  f.op ++ f.seg ++ f.afac ++ f.aoff ++ f.now ++ f.pkt ++ f.our ++ f.nhop ++ f.src ++ f.dst ++
    f.ida ++ f.idb ++ f.foff ++ f.otype ++ f.olen ++ f.arg ++ f.arg2

/-- The descriptor of a command. -/
def encode (i : Instr) : Desc := (encodeFields i).toDesc

end Sys2Proof
end

