-- ==== Sys2Proof/Machine/Ops.lean ====
section
/-!
DEFINITION. The operations the commands share: the wire buffer, the response, the one way a command is
refused or faults (60_exceptions.md sections 1 and 2), the way back (R210), and the presentation of the
next descriptor.
-/

namespace Sys2Proof.Machine

/-! ## The wire buffer (20_memory.md) -/

/-- The byte a command has written at an address, if one has. -/
def Memory.byteAt : Memory → Nat → Option Byte
  | [], _ => none
  | (a, v) :: m, k => if k = a then some v else Memory.byteAt m k

/-- Write one byte, keeping the addresses strictly rising. -/
def Memory.put : Memory → Nat → Byte → Memory
  | [], k, v => [(k, v)]
  | (a, w) :: m, k, v =>
    if k < a then (k, v) :: (a, w) :: m
    else if k = a then (k, v) :: m
    else (a, w) :: Memory.put m k v

/-- Write a byte sequence in ascending address order (R47). -/
def Memory.putAll (m : Memory) (addr : Nat) : List Byte → Memory
  | [] => m
  | b :: bs => Memory.putAll (Memory.put m addr b) (addr + 1) bs

/-- The byte at a wire address: what was last written there, else the byte's unspecified power-on value
(R48, 10_state.md R33). Reading has no side effect. -/
def State.readByte (s : State) (addr : Nat) : Byte :=
  (s.wb.byteAt addr).getD (Config.wbPowerOn addr)

/-- `MemRead(addr, n)` of 00_scope.md section 6.3. -/
def State.memRead (s : State) (addr n : Nat) : List Byte :=
  (List.range' addr n).map s.readByte

/-- `MemWrite(addr, n, bytes)` of 00_scope.md section 6.3, `n` the number of bytes. -/
def State.memWrite (s : State) (addr : Nat) (bytes : List Byte) : State :=
  { s with wb := s.wb.putAll addr bytes }

/-- The whole access lies inside WB, on unbounded integers (R49). -/
def State.fits (s : State) (addr n : Nat) : Bool := decide (addr + n ≤ s.params.wbSize)

/-! ## The entry stores (20_memory.md R42) -/

/-- Make room in a full buffer by removing the front entry, exactly one (R132, R162, R239). -/
def makeRoom {α : Type} (maxLen : Word) (l : List α) : List α :=
  if maxLen.toNat ≤ l.length then l.tail else l

/-! ## Outcomes (00_scope.md section 6.4) -/

/-- `return OK(...)`: the command ends with this response and these events, and the state `s`. -/
def State.reply (s : State) (r : Response) (evs : List Event := []) : State :=
  { s with resp := r, events := evs }

/-- The code of a status (R200). -/
def Status.code : Status → Byte
  | .ok => 0x00
  | .errIllegal => 0x01
  | .errHalted => 0x02
  | .errArg => 0x03
  | .errBounds => 0x04
  | .errOverflow => 0x05
  | .errTrunc => 0x06
  | .faultWireBounds => 0x80

/-- Bit 7 of the code marks the fault class (R200). -/
def Status.isFault (st : Status) : Bool := st.code.getLsbD 7

/-- The number that stands for a drop cause (30_encoding.md R70). -/
def DropCause.code : DropCause → Nat
  | .expired => 1
  | .capacity => 2

/-- A command ends with a status other than OK. A refusal changes no state (R204); the fault sets
STATUS.FAULT, FCAUSE and FINFO and nothing else (R207). The response is otherwise zero, the event list
empty. There is no handler, no saved pc and no mode (R209). -/
def State.takeException (s : State) (st : Status) (info : Word) : State :=
  (if st.isFault then { s with fault := true, fcause := st.code, finfo := info } else s).reply
    { status := st } []

/-- `raise ERR_X`: a refusal. -/
def State.raise (s : State) (st : Status) : State := s.takeException st 0

/-- `raise FAULT_WIRE_BOUNDS(info)`. -/
def State.raiseWireBounds (s : State) (info : Word) : State := s.takeException .faultWireBounds info

/-- The only exit from the fault (R210): every piece of state except WB takes its reset value
(R90, 70_reset_and_hazards.md R231, R232). -/
def State.resetExceptWire (s : State) : State :=
  { s with toBlock := { Block.powerOn s.params with wb := s.wb } }

/-- One command is one atomic transition (20_memory.md R52): it always completes (00_scope.md R3). -/
def complete (s : State) : Host.Outcome State Fault Refusal := .next s

/-! ## The next descriptor (00_scope.md R2, 10_state.md R31) -/

/-- The descriptor the host presents next, and the state in which the executor has accepted it. -/
def State.accept (s : State) : Option (Desc × State) :=
  match s.input with
  | [] => none
  | d :: rest => some (d, { s with input := rest })

/-- The host presents this descriptor before the others. -/
def State.present (s : State) (d : Desc) : State := { s with input := d :: s.input }

/-- An illegal descriptor is refused, halted or not, and nothing is recorded (R202, R208). -/
def State.refuseIllegal (s : State) : Host.Outcome State Fault Refusal := complete (s.raise .errIllegal)

end Sys2Proof.Machine
end

