-- ==== Sys2Proof/Machine/Flags.lean ====
section
/-!
DEFINITION. The Boolean conditions of the block. It has no condition codes (10_state.md R32): what there
is to compute is the halted test, the expiry tests, and the key relations that decide a response's `flag`.
-/

namespace Sys2Proof.Machine

/-- Every command but SYS.RESET and SYS.STATUS is refused with ERR_HALTED while STATUS.FAULT = 1, before
any of its own checks and without any effect (60_exceptions.md R203, R208); else it ends in `k`. -/
def State.unlessHalted (s k : State) : Host.Outcome State Fault Refusal :=
  complete (if s.fault then s.raise .errHalted else k)

/-! ## Expiry -/

/-- A deadline is past at `now`: strictly less, on integers (43_maintenance_buffer.md R130). -/
def pastDeadline (deadline : Int) (now : Dword) : Bool := decide (deadline < (now.toNat : Int))

/-- A maintenance entry is expired (R130). -/
def MaintEntry.expired (now : Dword) (e : MaintEntry) : Bool := pastDeadline e.deadline now

/-- A passive entry is expired (44_passive_buffer.md R161). -/
def PassiveEntry.expired (now : Dword) (e : PassiveEntry) : Bool := pastDeadline e.deadline now

/-- A queue entry is expired under the current NQ_MAXDELAY (45_network_queue.md R180). -/
def QueueEntry.expired (maxDelay now : Dword) (e : QueueEntry) : Bool :=
  pastDeadline (deadlineAt e.ts maxDelay) now

/-! ## Key relations: `e` is the stored entry, `c` the candidate -/

/-- MB.ENQ's duplicate test and MB.ALLEQ: all six key fields (R131). -/
def MaintEntry.allEqual (e c : MaintEntry) : Bool :=
  decide (e.our = c.our ∧ e.nhop = c.nhop ∧ e.src = c.src ∧ e.dst = c.dst ∧ e.ack = c.ack ∧ e.seg = c.seg)

/-- MB.DEQ, MB.FIND and MB.DROPNH: the next-hop alone (R131). -/
def MaintEntry.hasNextHop (nhop : Word) (e : MaintEntry) : Bool := decide (e.nhop = nhop)

/-- NQ.FIND and NQ.FINDPOP: the next-hop (45_network_queue.md R183). -/
def QueueEntry.hasNextHop (nhop : Word) (e : QueueEntry) : Bool := decide (e.nhop = nhop)

/-- `same6` of R160. -/
def PassiveEntry.same6 (e c : PassiveEntry) : Bool :=
  decide (e.pid = c.pid ∧ e.src = c.src ∧ e.dst = c.dst ∧ e.nhop = c.nhop ∧ e.ident = c.ident ∧ e.foff = c.foff)

/-- `one_hop_on` of R160: the candidate is the stored packet one hop further. `seg - 1` is an integer, so a
stored `seg` of 0 matches nothing. -/
def PassiveEntry.oneHopOn (e c : PassiveEntry) : Bool :=
  e.same6 c && decide ((c.seg.toNat : Int) = (e.seg.toNat : Int) - 1)

/-- `exact7` of R160. -/
def PassiveEntry.exact7 (e c : PassiveEntry) : Bool := e.same6 c && decide (c.seg = e.seg)

/-- PB.ENQ's duplicate test (R163), with the OPEN parameter PB_EXACT_DUP_REJECT. -/
def PassiveEntry.duplicates (exactReject : Bool) (e c : PassiveEntry) : Bool :=
  e.oneHopOn c || (exactReject && e.exact7 c)

/-- The field PB.DEQ and PB.FIND compare (R164), the OPEN parameter PB_LOOKUP_KEY. -/
def PassiveEntry.key (k : LookupKey) (e : PassiveEntry) : Word :=
  match k with
  | .nextHop => e.nhop
  | .destination => e.dst

/-- The lookup test of PB.DEQ and PB.FIND (R164, R165). -/
def PassiveEntry.hasKey (k : LookupKey) (key : Word) (e : PassiveEntry) : Bool := decide (e.key k = key)

end Sys2Proof.Machine
end

