-- ==== Sys2Proof/Machine/Maintenance.lean ====
section
/-!
DEFINITION. The maintenance buffer commands (43_maintenance_buffer.md).
-/

namespace Sys2Proof.Machine

/-- The entries `mb_purge(now)` leaves (R130). -/
def State.mbLive (s : State) (now : Dword) : List MaintEntry := s.mb.filter (fun e => !e.expired now)

/-- The number of entries `mb_purge(now)` removes (R130). -/
def State.mbExpiredCount (s : State) (now : Dword) : Nat := s.mb.countP (·.expired now)

/-- `mb_purge(now)` (R130). -/
def State.mbPurge (s : State) (now : Dword) : State := { s with mb := s.mbLive now }

/-- MB.ENQ after its sweep (R132): duplicate test, eviction, append. -/
def State.mbAdmit (s : State) (c : MaintEntry) : State :=
  if s.mb.any (·.allEqual c) then s.reply { flag := false }
  else { s with mb := makeRoom s.mbMaxLen s.mb ++ [c] }.reply { flag := true }

/-- MB.ENQ (R132). -/
def execMbEnq (seg : Byte) (now : Dword) (pkt our nhop src dst : Word) (ack : Half) (s : State) :
    Host.Outcome State Fault Refusal :=
  s.unlessHalted <|
    if nowLegal now then
      (s.mbPurge now).mbAdmit
        { pkt := pkt, our := our, nhop := nhop, src := src, dst := dst, ack := ack, seg := seg
          deadline := deadlineAt now s.mbTimeout }
    else s.raise .errArg

/-- Remove and hand over the first entry for a next-hop (R133). -/
def State.mbTake (s : State) (nhop : Word) : State :=
  match s.mb.find? (MaintEntry.hasNextHop nhop) with
  | some e =>
    { s with mb := s.mb.eraseP (MaintEntry.hasNextHop nhop) }.reply { flag := true, entry := some (.maint e) }
  | none => s.reply { flag := false }

/-- MB.DEQ (R133). -/
def execMbDeq (now : Dword) (nhop : Word) (s : State) : Host.Outcome State Fault Refusal :=
  s.unlessHalted <| if nowLegal now then (s.mbPurge now).mbTake nhop else s.raise .errArg

/-- MB.FIND (R134): no sweep. -/
def execMbFind (nhop : Word) (s : State) : Host.Outcome State Fault Refusal :=
  s.unlessHalted <| s.reply { flag := s.mb.any (MaintEntry.hasNextHop nhop) }

/-- Remove every entry for a next-hop and count them (R135). -/
def State.mbDropAll (s : State) (nhop : Word) : State :=
  { s with mb := s.mb.filter (fun e => !e.hasNextHop nhop) }.reply
    { flag := s.mb.any (MaintEntry.hasNextHop nhop)
      val := result (s.mb.countP (MaintEntry.hasNextHop nhop)) }

/-- MB.DROPNH (R135). -/
def execMbDropnh (now : Dword) (nhop : Word) (s : State) : Host.Outcome State Fault Refusal :=
  s.unlessHalted <| if nowLegal now then (s.mbPurge now).mbDropAll nhop else s.raise .errArg

/-- The common shape of the four predicates (R146): remove the first full match, if there is one. -/
def State.mbConsume (s : State) (isMatch : MaintEntry → Bool) : State :=
  if s.mb.any isMatch then { s with mb := s.mb.eraseP isMatch }.reply { flag := true }
  else s.reply { flag := false }

/-- MB.ALLEQ (R136): our, nhop, src, dst, ack, seg. -/
def execMbAlleq (seg : Byte) (our nhop src dst : Word) (ack : Half) (s : State) :
    Host.Outcome State Fault Refusal :=
  s.unlessHalted <| s.mbConsume fun e =>
    decide (e.our = our ∧ e.nhop = nhop ∧ e.src = src ∧ e.dst = dst ∧ e.ack = ack ∧ e.seg = seg)

/-- MB.NETEQ (R137): our, nhop, src, dst, ack. -/
def execMbNeteq (our nhop src dst : Word) (ack : Half) (s : State) : Host.Outcome State Fault Refusal :=
  s.unlessHalted <| s.mbConsume fun e =>
    decide (e.our = our ∧ e.nhop = nhop ∧ e.src = src ∧ e.dst = dst ∧ e.ack = ack)

/-- MB.PROMEQ (R138): src, dst, seg, ack. -/
def execMbPromeq (seg : Byte) (src dst : Word) (ack : Half) (s : State) :
    Host.Outcome State Fault Refusal :=
  s.unlessHalted <| s.mbConsume fun e =>
    decide (e.src = src ∧ e.dst = dst ∧ e.seg = seg ∧ e.ack = ack)

/-- MB.LINKEQ (R139): src, dst, our, nhop. -/
def execMbLinkeq (our nhop src dst : Word) (s : State) : Host.Outcome State Fault Refusal :=
  s.unlessHalted <| s.mbConsume fun e =>
    decide (e.src = src ∧ e.dst = dst ∧ e.our = our ∧ e.nhop = nhop)

/-- MB.PURGE (R140). -/
def execMbPurge (now : Dword) (s : State) : Host.Outcome State Fault Refusal :=
  s.unlessHalted <|
    if nowLegal now then (s.mbPurge now).reply { val := result (s.mbExpiredCount now) }
    else s.raise .errArg

/-- MB.SIZE (R141). -/
def execMbSize (now : Dword) (s : State) : Host.Outcome State Fault Refusal :=
  s.unlessHalted <|
    if nowLegal now then (s.mbPurge now).reply { val := result (s.mbLive now).length }
    else s.raise .errArg

/-- MB.SETMAXLEN (R142): no trimming. -/
def execMbSetmaxlen (n : Word) (s : State) : Host.Outcome State Fault Refusal :=
  s.unlessHalted <|
    if n.toNat < 1 ∨ n.toNat > s.params.mbSlots then s.raise .errArg
    else { s with mbMaxLen := n }.reply {}

/-- MB.SETTIMEOUT (R143). -/
def execMbSettimeout (hi lo : Word) (s : State) : Host.Outcome State Fault Refusal :=
  s.unlessHalted <| { s with mbTimeout := durationBits hi lo }.reply {}

end Sys2Proof.Machine
end

