-- ==== Sys2Proof/Machine/OptionCodec.lean ====
section
/-!
DEFINITION. The option codec and option field commands (41_option_codec.md) and the option and filler
encodings they use (30_encoding.md R75 to R79).
-/

namespace Sys2Proof.Machine

/-- `calc_pad(f, o)` on a stream of `osz` bytes (R100); the remainder is the never-negative one. -/
def calcPad (osz f o : Nat) : Nat := (((o : Int) - ((osz : Int) + (optBase : Int))) % (f : Int)).toNat

/-- `tpad` (R101): the pad for STREAM_ALIGN at the end of the stream. -/
def trailingPad (osz : Nat) : Nat := calcPad osz streamAlign.1 streamAlign.2

/-- `filler(pad)` (R76 to R78): nothing, one Pad1, or one PadN whose length byte is `pad - 2`. -/
def filler (p : Params) : Nat → List Byte
  | 0 => []
  | 1 => [p.pad1Type]
  | n + 2 => p.padNType :: BitVec.ofNat 8 n :: List.replicate n 0

/-- A generic option on the wire (R75). -/
def optionBytes (otype olen : Byte) (payload : List Byte) : List Byte := otype :: olen :: payload

/-- The stream as it is emitted (30_encoding.md R72): OSB and one trailing filler. -/
def State.emittedStream (s : State) : List Byte := s.osb ++ filler s.params (trailingPad s.osb.length)

/-- `of_size = osz + tpad` (R101). -/
def State.streamSize (s : State) : Nat := s.osb.length + trailingPad s.osb.length

/-- The type tag is one of the two reserved filler kinds (30_encoding.md R80). -/
def reservedTag (p : Params) (otype : Byte) : Bool := decide (otype = p.pad1Type ∨ otype = p.padNType)

/-- OF.CLEAR (R102). -/
def execOfClear (s : State) : Host.Outcome State Fault Refusal :=
  s.unlessHalted <| { s with osb := [] }.reply {}

/-- OF.CALCPAD (R103). -/
def execOfCalcpad (afac aoff : Byte) (s : State) : Host.Outcome State Fault Refusal :=
  s.unlessHalted <|
    if afac = 0 then s.raise .errArg
    else s.reply { val := result (calcPad s.osb.length afac.toNat aoff.toNat) }

/-- The effect of OF.APPEND once it is accepted (R104): a filler of `pad` bytes, then the option with the
payload from WB. -/
def State.appendOption (s : State) (pad : Nat) (otype olen : Byte) (addr : Nat) : State :=
  { s with
    osb := s.osb ++ filler s.params pad ++ optionBytes otype olen (s.memRead addr olen.toNat) }.reply
      { val := result (s.osb.length + pad), val2 := result pad }

/-- OF.APPEND (R104), its checks in the order of the rule. -/
def execOfAppend (afac aoff otype olen : Byte) (addr : Word) (s : State) :
    Host.Outcome State Fault Refusal :=
  s.unlessHalted <|
    if afac = 0 then s.raise .errArg
    else if reservedTag s.params otype then s.raise .errArg
    else if !s.fits addr.toNat olen.toNat then s.raise .errBounds
    else
      if s.osb.length + calcPad s.osb.length afac.toNat aoff.toNat + 2 + olen.toNat > s.params.osbCap
      then s.raise .errOverflow
      else s.appendOption (calcPad s.osb.length afac.toNat aoff.toNat) otype olen addr.toNat

/-- OF.SIZE (R105). -/
def execOfSize (s : State) : Host.Outcome State Fault Refusal :=
  s.unlessHalted <| s.reply { val := result s.streamSize }

/-- OF.SERIALIZE (R106). -/
def execOfSerialize (addr : Word) (s : State) : Host.Outcome State Fault Refusal :=
  s.unlessHalted <|
    if s.fits addr.toNat s.streamSize then
      (s.memWrite addr.toNat s.emittedStream).reply { val := result s.streamSize }
    else s.raise .errBounds

/-- OF.DESERIALIZE (R107): ERR_OVERFLOW before the fault. -/
def execOfDeserialize (addr len : Word) (s : State) : Host.Outcome State Fault Refusal :=
  s.unlessHalted <|
    if len.toNat > s.params.osbCap then s.raise .errOverflow
    else if s.fits addr.toNat len.toNat then
      { s with osb := s.memRead addr.toNat len.toNat }.reply { val := result len.toNat }
    else s.raiseWireBounds addr

/-- OF.READ (R108). -/
def execOfRead (idx : Word) (s : State) : Host.Outcome State Fault Refusal :=
  s.unlessHalted <|
    match s.osb[idx.toNat]? with
    | some b => s.reply { val := b.setWidth 64 }
    | none => s.raise .errArg

/-- The `val2` of OPT.DECODE: kind in bits 17:16, type byte in 15:8, length byte in 7:0 (R110). -/
def elementInfo (kind : BitVec 2) (t n : Byte) : Dword := (kind ++ t ++ n).setWidth 64

/-- OPT.DECODE (R110). -/
def execOptDecode (idx : Word) (s : State) : Host.Outcome State Fault Refusal :=
  s.unlessHalted <|
    match s.osb[idx.toNat]? with
    | none => s.raise .errArg
    | some t =>
      if t = s.params.pad1Type then s.reply { val := result 1, val2 := elementInfo 1 t 0 }
      else
        match s.osb[idx.toNat + 1]? with
        | none => s.raise .errTrunc
        | some n =>
          if idx.toNat + 2 + n.toNat > s.osb.length then s.raise .errTrunc
          else
            s.reply
              { val := result (2 + n.toNat)
                val2 := elementInfo (if t = s.params.padNType then 2 else 0) t n }

end Sys2Proof.Machine
end

