-- ==== Sys2Proof/Machine/Passive.lean ====
section
/-!
DEFINITION. The passive buffer commands (44_passive_buffer.md).
-/

namespace Sys2Proof.Machine

/-- The entries `pb_purge(now)` leaves (R161). -/
def State.pbLive (s : State) (now : Dword) : List PassiveEntry := s.pb.filter (fun e => !e.expired now)

/-- The events `pb_purge(now)` emits: one per expired entry, front to back (R161). -/
def State.pbExpiredEvents (s : State) (now : Dword) : List Event :=
  (s.pb.filter (·.expired now)).map (.drop .expired)

/-- The removals of `pb_purge(now)` (R161). -/
def State.pbPurge (s : State) (now : Dword) : State := { s with pb := s.pbLive now }

/-- The event of `pb_evict()` (R162), when the buffer is at its bound. -/
def evictEvents (maxLen : Word) (l : List PassiveEntry) : List Event :=
  if maxLen.toNat ≤ l.length then (l.take 1).map (.drop .capacity) else []

/-- PB.ENQ after its sweep (R163): duplicate test, eviction, append; `evs` are the sweep's events. -/
def State.pbAdmit (s : State) (c : PassiveEntry) (evs : List Event) : State :=
  if s.pb.any (·.duplicates s.params.pbExactDupReject c) then s.reply { flag := false } evs
  else
    { s with pb := makeRoom s.pbMaxLen s.pb ++ [c] }.reply { flag := true }
      (evs ++ evictEvents s.pbMaxLen s.pb)

/-- PB.ENQ (R163). -/
def execPbEnq (seg : Byte) (now : Dword) (pkt nhop src dst : Word) (pid ident foff : Half) (s : State) :
    Host.Outcome State Fault Refusal :=
  s.unlessHalted <|
    if nowLegal now then
      (s.pbPurge now).pbAdmit
        { pkt := pkt, pid := pid, src := src, dst := dst, nhop := nhop, ident := ident, foff := foff
          seg := seg, deadline := deadlineAt now s.pbTimeout }
        (s.pbExpiredEvents now)
    else s.raise .errArg

/-- Remove and hand over the first entry whose lookup field is `key` (R164). -/
def State.pbTake (s : State) (key : Word) (evs : List Event) : State :=
  match s.pb.find? (PassiveEntry.hasKey s.params.pbLookupKey key) with
  | some e =>
    { s with pb := s.pb.eraseP (PassiveEntry.hasKey s.params.pbLookupKey key) }.reply
      { flag := true, entry := some (.passive e) } evs
  | none => s.reply { flag := false } evs

/-- PB.DEQ (R164). -/
def execPbDeq (now : Dword) (key : Word) (s : State) : Host.Outcome State Fault Refusal :=
  s.unlessHalted <|
    if nowLegal now then (s.pbPurge now).pbTake key (s.pbExpiredEvents now) else s.raise .errArg

/-- PB.FIND (R165): no sweep. -/
def execPbFind (key : Word) (s : State) : Host.Outcome State Fault Refusal :=
  s.unlessHalted <| s.reply { flag := s.pb.any (PassiveEntry.hasKey s.params.pbLookupKey key) }

/-- The first entry that is one hop behind the candidate is consumed (R166). -/
def State.pbConsume (s : State) (isMatch : PassiveEntry → Bool) : State :=
  if s.pb.any isMatch then { s with pb := s.pb.eraseP isMatch }.reply { flag := true }
  else s.reply { flag := false }

/-- PB.ALLEQ (R166): strictly off by one, no sweep, no event. The candidate's `pkt` and `deadline` are never
compared. -/
def execPbAlleq (seg : Byte) (nhop src dst : Word) (pid ident foff : Half) (s : State) :
    Host.Outcome State Fault Refusal :=
  s.unlessHalted <| s.pbConsume fun e =>
    e.oneHopOn
      { pkt := 0, pid := pid, src := src, dst := dst, nhop := nhop, ident := ident, foff := foff
        seg := seg, deadline := 0 }

/-- PB.PURGE (R167). -/
def execPbPurge (now : Dword) (s : State) : Host.Outcome State Fault Refusal :=
  s.unlessHalted <|
    if nowLegal now then
      (s.pbPurge now).reply { val := result (s.pbExpiredEvents now).length } (s.pbExpiredEvents now)
    else s.raise .errArg

/-- PB.SIZE (R168). -/
def execPbSize (now : Dword) (s : State) : Host.Outcome State Fault Refusal :=
  s.unlessHalted <|
    if nowLegal now then
      (s.pbPurge now).reply { val := result (s.pbLive now).length } (s.pbExpiredEvents now)
    else s.raise .errArg

/-- PB.SETMAXLEN (R169). -/
def execPbSetmaxlen (n : Word) (s : State) : Host.Outcome State Fault Refusal :=
  s.unlessHalted <|
    if n.toNat < 1 ∨ n.toNat > s.params.pbSlots then s.raise .errArg
    else { s with pbMaxLen := n }.reply {}

/-- PB.SETTIMEOUT (R170). -/
def execPbSettimeout (hi lo : Word) (s : State) : Host.Outcome State Fault Refusal :=
  s.unlessHalted <| { s with pbTimeout := durationBits hi lo }.reply {}

/-- PB.DROPLINK (R171): a pure notification. -/
def execPbDroplink (pkt nhop src : Word) (s : State) : Host.Outcome State Fault Refusal :=
  s.unlessHalted <| s.reply {} [.dropLink pkt src nhop]

end Sys2Proof.Machine
end

