-- ==== Sys2Proof/Machine/Queue.lean ====
section
/-!
DEFINITION. The network queue commands (45_network_queue.md).
-/

namespace Sys2Proof.Machine

/-- The entries `nq_cleanup(now)` leaves (R180), under the current NQ_MAXDELAY. -/
def State.nqLive (s : State) (now : Dword) : List QueueEntry :=
  s.nq.filter (fun e => !e.expired s.nqMaxDelay now)

/-- The number of entries `nq_cleanup(now)` removes (R180). -/
def State.nqExpiredCount (s : State) (now : Dword) : Nat := s.nq.countP (·.expired s.nqMaxDelay now)

/-- `nq_cleanup(now)` (R180). -/
def State.nqCleanup (s : State) (now : Dword) : State := { s with nq := s.nqLive now }

/-- NQ.ENQ (R181): no cleanup, no eviction, no duplicate test. -/
def execNqEnq (now : Dword) (pkt nhop : Word) (s : State) : Host.Outcome State Fault Refusal :=
  s.unlessHalted <|
    if nowLegal now then
      if s.nqMaxSize.toNat ≤ s.nq.length then s.reply { flag := false }
      else { s with nq := s.nq ++ [QueueEntry.mk pkt nhop now] }.reply { flag := true }
    else s.raise .errArg

/-- Pop the front entry (R182). -/
def State.nqPop (s : State) : State :=
  match s.nq with
  | [] => s.reply { flag := false }
  | e :: rest => { s with nq := rest }.reply { flag := true, entry := some (.queue e) }

/-- NQ.DEQ (R182). -/
def execNqDeq (now : Dword) (s : State) : Host.Outcome State Fault Refusal :=
  s.unlessHalted <| if nowLegal now then (s.nqCleanup now).nqPop else s.raise .errArg

/-- NQ.FIND (R183). -/
def execNqFind (nhop : Word) (s : State) : Host.Outcome State Fault Refusal :=
  s.unlessHalted <| s.reply { flag := s.nq.any (QueueEntry.hasNextHop nhop) }

/-- NQ.FINDPOP (R184): no cleanup. -/
def execNqFindpop (nhop : Word) (s : State) : Host.Outcome State Fault Refusal :=
  s.unlessHalted <|
    match s.nq.find? (QueueEntry.hasNextHop nhop) with
    | some e =>
      { s with nq := s.nq.eraseP (QueueEntry.hasNextHop nhop) }.reply { flag := true, entry := some (.queue e) }
    | none => s.reply { flag := false }

/-- NQ.FLUSH (R185). -/
def execNqFlush (s : State) : Host.Outcome State Fault Refusal :=
  s.unlessHalted <| { s with nq := [] }.reply { val := result s.nq.length }

/-- NQ.CLEANUP (R186). -/
def execNqCleanup (now : Dword) (s : State) : Host.Outcome State Fault Refusal :=
  s.unlessHalted <|
    if nowLegal now then (s.nqCleanup now).reply { val := result (s.nqExpiredCount now) }
    else s.raise .errArg

/-- NQ.SIZE (R187). -/
def execNqSize (now : Dword) (s : State) : Host.Outcome State Fault Refusal :=
  s.unlessHalted <|
    if nowLegal now then (s.nqCleanup now).reply { val := result (s.nqLive now).length }
    else s.raise .errArg

/-- NQ.SETMAXSIZE (R188): 0 is legal. -/
def execNqSetmaxsize (n : Word) (s : State) : Host.Outcome State Fault Refusal :=
  s.unlessHalted <|
    if n.toNat > s.params.nqSlots then s.raise .errArg else { s with nqMaxSize := n }.reply {}

/-- NQ.SETMAXDELAY (R189). -/
def execNqSetmaxdelay (hi lo : Word) (s : State) : Host.Outcome State Fault Refusal :=
  s.unlessHalted <| { s with nqMaxDelay := durationBits hi lo }.reply {}

end Sys2Proof.Machine
end

