-- ==== Sys2Proof/Machine/RoutingHeader.lean ====
section
/-!
DEFINITION. The header commands (42_routing_header.md) and the FixedHeader's wire layout (30_encoding.md
R71).
-/

namespace Sys2Proof.Machine

/-- `be16` (20_memory.md R43): the high byte first. -/
def be16 (v : Half) : List Byte := [v.extractLsb' 8 8, v.extractLsb' 0 8]

/-- Two bytes as a 16-bit field, the first the high byte. -/
def ofBe16 (hi lo : Byte) : Half := hi ++ lo

/-- The 8 bytes of the FixedHeader in their fixed order (R71). -/
def Header.bytes (h : Header) : List Byte :=
  [h.nextHeader, h.messageType] ++ be16 h.sourceId ++ be16 h.destId ++ be16 h.payloadLen

/-- The FixedHeader at a wire address (R71). -/
def State.headerAt (s : State) (a : Nat) : Header where
  nextHeader := s.readByte a
  messageType := s.readByte (a + 1)
  sourceId := ofBe16 (s.readByte (a + 2)) (s.readByte (a + 3))
  destId := ofBe16 (s.readByte (a + 4)) (s.readByte (a + 5))
  payloadLen := ofBe16 (s.readByte (a + 6)) (s.readByte (a + 7))

/-- The serialized size of the RoutingHeader (R122). -/
def State.headerSize (s : State) : Nat := fixedSize + s.streamSize

/-- HDR.SET (R120). -/
def execHdrSet (sid did plen : Half) (nh mt : Byte) (s : State) : Host.Outcome State Fault Refusal :=
  s.unlessHalted <|
    { s with
      hdr :=
        { nextHeader := nh, messageType := mt, sourceId := sid, destId := did, payloadLen := plen } }.reply {}

/-- HDR.GET (R121): the five registers as one 64-bit number, nextHeader in the top byte. -/
def execHdrGet (s : State) : Host.Outcome State Fault Refusal :=
  s.unlessHalted <|
    s.reply
      { val :=
          s.hdr.nextHeader ++ s.hdr.messageType ++ s.hdr.sourceId ++ s.hdr.destId ++ s.hdr.payloadLen }

/-- HDR.SIZE (R122). -/
def execHdrSize (s : State) : Host.Outcome State Fault Refusal :=
  s.unlessHalted <| s.reply { val := result s.headerSize }

/-- HDR.SERIALIZE (R123). -/
def execHdrSerialize (addr : Word) (s : State) : Host.Outcome State Fault Refusal :=
  s.unlessHalted <|
    if s.fits addr.toNat s.headerSize then
      (s.memWrite addr.toNat (s.hdr.bytes ++ s.emittedStream)).reply { val := result s.headerSize }
    else s.raise .errBounds

/-- HDR.DESERIALIZE (R124): all or nothing, its checks in the order of the rule. -/
def execHdrDeserialize (addr : Word) (s : State) : Host.Outcome State Fault Refusal :=
  s.unlessHalted <|
    if !s.fits addr.toNat fixedSize then s.raiseWireBounds addr
    else
      if (s.headerAt addr.toNat).payloadLen.toNat > s.params.osbCap then s.raise .errOverflow
      else if !s.fits addr.toNat (fixedSize + (s.headerAt addr.toNat).payloadLen.toNat) then
        s.raiseWireBounds addr
      else
        { s with
          hdr := s.headerAt addr.toNat
          osb := s.memRead (addr.toNat + fixedSize) (s.headerAt addr.toNat).payloadLen.toNat }.reply
            { val := result (fixedSize + (s.headerAt addr.toNat).payloadLen.toNat) }

end Sys2Proof.Machine
end

