-- ==== Sys2Proof/Machine/System.lean ====
section
/-!
DEFINITION. The system and wire-buffer commands (40_system_wire.md).
-/

namespace Sys2Proof.Machine

/-- SYS.RESET (R90): accepted halted or not. -/
def execSysReset (s : State) : Host.Outcome State Fault Refusal :=
  complete (s.resetExceptWire.reply {})

/-- SYS.STATUS (R91): accepted halted or not. -/
def execSysStatus (s : State) : Host.Outcome State Fault Refusal :=
  complete (s.reply { flag := s.fault, val := s.fcause.setWidth 64, val2 := s.finfo.setWidth 64 })

/-- The value behind a selector of CFG.GET (R92, 10_state.md R24 to R28): a duration as its bit pattern,
everything else zero-extended; none where the selector is not assigned. -/
def State.config (s : State) (sel : Nat) : Option Dword :=
  match sel with
  | 0 => some (s.mbMaxLen.setWidth 64)
  | 1 => some s.mbTimeout
  | 2 => some (s.pbMaxLen.setWidth 64)
  | 3 => some s.pbTimeout
  | 4 => some (s.nqMaxSize.setWidth 64)
  | 5 => some s.nqMaxDelay
  | 8 => some (result s.params.mbSlots)
  | 9 => some (result s.params.pbSlots)
  | 10 => some (result s.params.nqSlots)
  | 11 => some (result s.params.wbSize)
  | 12 => some (result s.params.osbCap)
  | 13 => some (s.params.pad1Type.setWidth 64)
  | 14 => some (s.params.padNType.setWidth 64)
  | 15 => some (result optBase)
  | _ => none

/-- CFG.GET (R92). -/
def execCfgGet (sel : Word) (s : State) : Host.Outcome State Fault Refusal :=
  s.unlessHalted <|
    match s.config sel.toNat with
    | some v => s.reply { val := v }
    | none => s.raise .errArg

/-- WB.WRITE (R93). -/
def execWbWrite (addr byte : Word) (s : State) : Host.Outcome State Fault Refusal :=
  s.unlessHalted <|
    match byteOperand byte with
    | none => s.raise .errArg
    | some b =>
      if s.fits addr.toNat 1 then (s.memWrite addr.toNat [b]).reply {} else s.raise .errBounds

/-- WB.READ (R94). -/
def execWbRead (addr : Word) (s : State) : Host.Outcome State Fault Refusal :=
  s.unlessHalted <|
    if s.fits addr.toNat 1 then s.reply { val := (s.readByte addr.toNat).setWidth 64 }
    else s.raise .errBounds

end Sys2Proof.Machine
end

