-- ==== Sys2Proof/Machine/Dispatch.lean ====
section
/-! DEFINITION. One command in one state (00_scope.md R3): one arm per command. -/

namespace Sys2Proof.Machine

def exec (i : Instr) (s : State) : Host.Outcome State Fault Refusal :=
  match i with
  | .sysReset => Sys2Proof.Machine.execSysReset s
  | .sysStatus => Sys2Proof.Machine.execSysStatus s
  | .cfgGet arg => Sys2Proof.Machine.execCfgGet arg s
  | .wbWrite arg arg2 => Sys2Proof.Machine.execWbWrite arg arg2 s
  | .wbRead arg => Sys2Proof.Machine.execWbRead arg s
  | .ofClear => Sys2Proof.Machine.execOfClear s
  | .ofCalcpad afac aoff => Sys2Proof.Machine.execOfCalcpad afac aoff s
  | .ofAppend afac aoff otype olen arg => Sys2Proof.Machine.execOfAppend afac aoff otype olen arg s
  | .ofSize => Sys2Proof.Machine.execOfSize s
  | .ofSerialize arg => Sys2Proof.Machine.execOfSerialize arg s
  | .ofDeserialize arg arg2 => Sys2Proof.Machine.execOfDeserialize arg arg2 s
  | .ofRead arg => Sys2Proof.Machine.execOfRead arg s
  | .optDecode arg => Sys2Proof.Machine.execOptDecode arg s
  | .hdrSet sid did plen nh mt => Sys2Proof.Machine.execHdrSet sid did plen nh mt s
  | .hdrGet => Sys2Proof.Machine.execHdrGet s
  | .hdrSize => Sys2Proof.Machine.execHdrSize s
  | .hdrSerialize arg => Sys2Proof.Machine.execHdrSerialize arg s
  | .hdrDeserialize arg => Sys2Proof.Machine.execHdrDeserialize arg s
  | .mbEnq seg now pkt our nhop src dst ida => Sys2Proof.Machine.execMbEnq seg now pkt our nhop src dst ida s
  | .mbDeq now nhop => Sys2Proof.Machine.execMbDeq now nhop s
  | .mbFind nhop => Sys2Proof.Machine.execMbFind nhop s
  | .mbDropnh now nhop => Sys2Proof.Machine.execMbDropnh now nhop s
  | .mbAlleq seg our nhop src dst ida => Sys2Proof.Machine.execMbAlleq seg our nhop src dst ida s
  | .mbNeteq our nhop src dst ida => Sys2Proof.Machine.execMbNeteq our nhop src dst ida s
  | .mbPromeq seg src dst ida => Sys2Proof.Machine.execMbPromeq seg src dst ida s
  | .mbLinkeq our nhop src dst => Sys2Proof.Machine.execMbLinkeq our nhop src dst s
  | .mbPurge now => Sys2Proof.Machine.execMbPurge now s
  | .mbSize now => Sys2Proof.Machine.execMbSize now s
  | .mbSetmaxlen arg => Sys2Proof.Machine.execMbSetmaxlen arg s
  | .mbSettimeout arg arg2 => Sys2Proof.Machine.execMbSettimeout arg arg2 s
  | .pbEnq seg now pkt nhop src dst ida idb foff => Sys2Proof.Machine.execPbEnq seg now pkt nhop src dst ida idb foff s
  | .pbDeq now nhop => Sys2Proof.Machine.execPbDeq now nhop s
  | .pbFind nhop => Sys2Proof.Machine.execPbFind nhop s
  | .pbAlleq seg nhop src dst ida idb foff => Sys2Proof.Machine.execPbAlleq seg nhop src dst ida idb foff s
  | .pbPurge now => Sys2Proof.Machine.execPbPurge now s
  | .pbSize now => Sys2Proof.Machine.execPbSize now s
  | .pbSetmaxlen arg => Sys2Proof.Machine.execPbSetmaxlen arg s
  | .pbSettimeout arg arg2 => Sys2Proof.Machine.execPbSettimeout arg arg2 s
  | .pbDroplink pkt nhop src => Sys2Proof.Machine.execPbDroplink pkt nhop src s
  | .nqEnq now pkt nhop => Sys2Proof.Machine.execNqEnq now pkt nhop s
  | .nqDeq now => Sys2Proof.Machine.execNqDeq now s
  | .nqFind nhop => Sys2Proof.Machine.execNqFind nhop s
  | .nqFindpop nhop => Sys2Proof.Machine.execNqFindpop nhop s
  | .nqFlush => Sys2Proof.Machine.execNqFlush s
  | .nqCleanup now => Sys2Proof.Machine.execNqCleanup now s
  | .nqSize now => Sys2Proof.Machine.execNqSize now s
  | .nqSetmaxsize arg => Sys2Proof.Machine.execNqSetmaxsize arg s
  | .nqSetmaxdelay arg arg2 => Sys2Proof.Machine.execNqSetmaxdelay arg arg2 s

end Sys2Proof.Machine
end

