-- ==== Sys2Proof/Machine/Step.lean ====
section
/-!
DEFINITION. One step: the executor accepts the next descriptor, decodes it and runs the command to
completion (00_scope.md R2, 60_exceptions.md R208).
-/

namespace Sys2Proof.Machine

/-- One step. With no descriptor presented the block waits and nothing changes (70_reset_and_hazards.md
R231, 60_exceptions.md R211; log 3). -/
def step (s : State) : Host.Outcome State Fault Refusal :=
  match s.accept with
  | none => complete s
  | some (d, s') =>
    match decode d with
    | .ok i => exec i s'
    | .error _ => s'.refuseIllegal

/-- The host presents the descriptor with the given bits, numbered as spec/opcode_table.json numbers them,
as the next one. -/
def State.withFetchWord (s : State) (nbits w : Nat) : State :=
  s.present (BitVec.ofNat 384 (w % 2 ^ nbits))

end Sys2Proof.Machine
end

