-- ==== Sys2Proof/Safety.lean ====
section
/-!
DEFINITION. The terms claims use: what stays the same across a command, and the invariant of the block.
-/

namespace Sys2Proof.Machine

/-- A piece of the state, named so that a claim can say which pieces a command may change. -/
inductive Part where
  /-- The five H registers. -/
  | header
  /-- OSB. -/
  | stream
  /-- WB, as its bytes read. -/
  | wire
  /-- MB. -/
  | maint
  /-- PB. -/
  | passive
  /-- NQ. -/
  | queue
  /-- MB_MAXLEN. -/
  | mbMaxLen
  /-- MB_TIMEOUT. -/
  | mbTimeout
  /-- PB_MAXLEN. -/
  | pbMaxLen
  /-- PB_TIMEOUT. -/
  | pbTimeout
  /-- NQ_MAXSIZE. -/
  | nqMaxSize
  /-- NQ_MAXDELAY. -/
  | nqMaxDelay
  /-- STATUS.FAULT, FCAUSE and FINFO. -/
  | status
  /-- The instance's parameters (the model's own field). -/
  | params
  /-- The descriptors the host will present (the model's own field). -/
  | input
  deriving DecidableEq, Repr

/-- The piece is the same before and after. WB is the same if every address reads the same. -/
def Part.same (p : Part) (s t : State) : Prop :=
  match p with
  | .header => t.hdr = s.hdr
  | .stream => t.osb = s.osb
  | .wire => ∀ a, t.readByte a = s.readByte a
  | .maint => t.mb = s.mb
  | .passive => t.pb = s.pb
  | .queue => t.nq = s.nq
  | .mbMaxLen => t.mbMaxLen = s.mbMaxLen
  | .mbTimeout => t.mbTimeout = s.mbTimeout
  | .pbMaxLen => t.pbMaxLen = s.pbMaxLen
  | .pbTimeout => t.pbTimeout = s.pbTimeout
  | .nqMaxSize => t.nqMaxSize = s.nqMaxSize
  | .nqMaxDelay => t.nqMaxDelay = s.nqMaxDelay
  | .status => t.fault = s.fault ∧ t.fcause = s.fcause ∧ t.finfo = s.finfo
  | .params => t.params = s.params
  | .input => t.input = s.input

/-- The frame of a command: everything but the pieces listed is unchanged. The response and the events are
the command's output and are never part of a frame. -/
def Frame (changed : List Part) (s t : State) : Prop := ∀ p, p ∉ changed → p.same s t

/-- A deadline lies in the range of 10_state.md R16. -/
def deadlineInRange (d : Int) : Prop := -2 ^ 63 ≤ d ∧ d ≤ 2 ^ 64 - 2

/-- The invariant of the block: what 10_state.md says of every reachable state. -/
structure Inv (s : State) : Prop where
  /-- The instance is well formed (R1). -/
  params_wf : s.params.wf
  /-- `osz <= OSB_CAP` (R11). -/
  stream_fits : s.osb.length ≤ s.params.osbCap
  /-- WB is in canonical form and inside `0 .. WB_SIZE-1` (R13). -/
  wire_wf : s.wb.wf s.params.wbSize
  /-- `len(MB) <= MB_SLOTS` (R15). -/
  maint_fits : s.mb.length ≤ s.params.mbSlots
  /-- `len(PB) <= PB_SLOTS` (R18). -/
  passive_fits : s.pb.length ≤ s.params.pbSlots
  /-- `len(NQ) <= NQ_SLOTS` (R20). -/
  queue_fits : s.nq.length ≤ s.params.nqSlots
  /-- MB_MAXLEN is legal (R24). -/
  mbMaxLen_legal : 1 ≤ s.mbMaxLen.toNat ∧ s.mbMaxLen.toNat ≤ s.params.mbSlots
  /-- PB_MAXLEN is legal (R25). -/
  pbMaxLen_legal : 1 ≤ s.pbMaxLen.toNat ∧ s.pbMaxLen.toNat ≤ s.params.pbSlots
  /-- NQ_MAXSIZE is legal (R26). -/
  nqMaxSize_legal : s.nqMaxSize.toNat ≤ s.params.nqSlots
  /-- No two maintenance entries agree on all six key fields (R23). -/
  maint_noDuplicate : s.mb.Pairwise (fun e c => e.allEqual c = false)
  /-- No later passive entry is one hop on from an earlier one, and with PB_EXACT_DUP_REJECT none is
  identical to an earlier one (R23). -/
  passive_noDuplicate : s.pb.Pairwise (fun e c => e.duplicates s.params.pbExactDupReject c = false)
  /-- Deadlines of maintenance entries are in range (R16). -/
  maint_deadline : ∀ e ∈ s.mb, deadlineInRange e.deadline
  /-- Deadlines of passive entries are in range (R16). -/
  passive_deadline : ∀ e ∈ s.pb, deadlineInRange e.deadline
  /-- Time stamps are below 2^63 (R19). -/
  queue_stamp : ∀ e ∈ s.nq, e.ts.toNat < 2 ^ 63
  /-- FCAUSE and FINFO describe the fault that STATUS.FAULT records, and are 0 without one (R27). -/
  status_consistent : (s.fault = true → s.fcause = 0x80) ∧ (s.fault = false → s.fcause = 0 ∧ s.finfo = 0)

end Sys2Proof.Machine
end

