-- ==== Sys2Proof/Certificates/Slice0/Obligations.lean ====
section
/-!
DEFINITION. The statements for the provers. The words they use are first: they are written from the rules
(explicit numbers, filters and list shapes) and not from the functions the meanings call.
-/

namespace Sys2Proof.Spec

open Sys2Proof.Machine

/-- The command completes: `exec` answers a next state with exactly this response and these events, in which
every piece of the state but those listed is unchanged, and which satisfies `post`. -/
def Completes (i : Instr) (s : State) (changed : List Part) (r : Response) (evs : List Event)
    (post : State → Prop) : Prop :=
  ∃ t, exec i s = .next t ∧ t.resp = r ∧ t.events = evs ∧ Frame changed s t ∧ post t

/-- The command is refused with a status and changes nothing (R204). -/
def Refuses (i : Instr) (s : State) (st : Status) : Prop :=
  Completes i s [] { status := st } [] fun _ => True

/-- The command takes the fault with `info` (R207). -/
def Faults (i : Instr) (s : State) (info : Word) : Prop :=
  Completes i s [.status] { status := .faultWireBounds } [] fun t =>
    t.fault = true ∧ t.fcause = 0x80 ∧ t.finfo = info

/-- The command's descriptor is the one with these fields and 0 elsewhere. -/
def Encodes (i : Instr) (f : Fields) : Prop := encode i = f.toDesc ∧ decode f.toDesc = .ok i

/-- A legal clock operand (R65). -/
def LegalNow (now : Dword) : Prop := now.toNat < 2 ^ 63

/-- The least multiple of 4 that is at least `n`. -/
def roundUp4 (n : Nat) : Nat := (n + 3) / 4 * 4

/-- `pad` is the pad for the alignment `(f, o)` at the end of a stream of `osz` bytes (R100). -/
def IsPad (osz f o pad : Nat) : Prop := pad < f ∧ (osz + 8 + pad) % f = o % f

/-- The filler of a pad (R76 to R78). -/
def fillerOf (p : Params) (pad : Nat) : List Byte :=
  if pad = 0 then []
  else if pad = 1 then [p.pad1Type]
  else [p.padNType, BitVec.ofNat 8 (pad - 2)] ++ List.replicate (pad - 2) 0

/-- The stream with its trailing filler (R79). -/
def emitted (p : Params) (osb : List Byte) : List Byte :=
  osb ++ fillerOf p (roundUp4 osb.length - osb.length)

/-- The 8 bytes of a FixedHeader (R71). -/
def headerBytes (h : Header) : List Byte :=
  [h.nextHeader, h.messageType,
    BitVec.ofNat 8 (h.sourceId.toNat / 256), BitVec.ofNat 8 (h.sourceId.toNat % 256),
    BitVec.ofNat 8 (h.destId.toNat / 256), BitVec.ofNat 8 (h.destId.toNat % 256),
    BitVec.ofNat 8 (h.payloadLen.toNat / 256), BitVec.ofNat 8 (h.payloadLen.toNat % 256)]

/-- The bytes `WB[a .. a+n-1]` as they read. -/
def wireBytes (s : State) (a n : Nat) : List Byte := (List.range n).map fun k => s.readByte (a + k)

/-- The payloadLen that a header at `a` declares (R124). -/
def declaredLen (s : State) (a : Nat) : Nat :=
  (s.readByte (a + 6)).toNat * 256 + (s.readByte (a + 7)).toNat

/-- After the command the bytes are in WB at `a` and every address outside reads as before. -/
def Stores (s t : State) (a : Nat) (bytes : List Byte) : Prop :=
  wireBytes t a bytes.length = bytes ∧
  ∀ k, k < a ∨ a + bytes.length ≤ k → t.readByte k = s.readByte k

/-- The maintenance entries that are live at `now`, in order (R130). -/
def mbLiveAt (s : State) (now : Dword) : List MaintEntry :=
  s.mb.filter fun e => decide ((now.toNat : Int) ≤ e.deadline)

/-- The passive entries that are live at `now`, in order (R161). -/
def pbLiveAt (s : State) (now : Dword) : List PassiveEntry :=
  s.pb.filter fun e => decide ((now.toNat : Int) ≤ e.deadline)

/-- The EXPIRED events of the passive sweep (R161). -/
def pbDropsAt (s : State) (now : Dword) : List Event :=
  (s.pb.filter fun e => decide (e.deadline < (now.toNat : Int))).map (Event.drop .expired)

/-- The queue entries that are live at `now` under the current NQ_MAXDELAY, in order (R180). -/
def nqLiveAt (s : State) (now : Dword) : List QueueEntry :=
  s.nq.filter fun e => decide ((now.toNat : Int) ≤ (e.ts.toNat : Int) + s.nqMaxDelay.toInt)

/-- The six key fields of two maintenance entries agree (R131). -/
def SixEqual (e c : MaintEntry) : Prop :=
  e.our = c.our ∧ e.nhop = c.nhop ∧ e.src = c.src ∧ e.dst = c.dst ∧ e.ack = c.ack ∧ e.seg = c.seg

/-- The six plain key fields of two passive entries agree (R160, `same6`). -/
def PassiveSame (e c : PassiveEntry) : Prop :=
  e.pid = c.pid ∧ e.src = c.src ∧ e.dst = c.dst ∧ e.nhop = c.nhop ∧ e.ident = c.ident ∧ e.foff = c.foff

/-- The candidate is the stored packet one hop further (R160, `one_hop_on`). -/
def OneHopOn (e c : PassiveEntry) : Prop := PassiveSame e c ∧ c.seg.toNat + 1 = e.seg.toNat

/-- PB.ENQ's duplicate test (R163), with PB_EXACT_DUP_REJECT. -/
def PassiveDuplicate (p : Params) (e c : PassiveEntry) : Prop :=
  OneHopOn e c ∨ p.pbExactDupReject = true ∧ PassiveSame e c ∧ c.seg = e.seg

/-- The field PB_LOOKUP_KEY names (R164). -/
def lookupField (p : Params) (e : PassiveEntry) : Word :=
  if p.pbLookupKey = .nextHop then e.nhop else e.dst

/-- `e` is the first element that satisfies `P`, and `rest` is the sequence without it. -/
def FirstMatch {α : Type} (P : α → Prop) (l : List α) (e : α) (rest : List α) : Prop :=
  ∃ front back, l = front ++ e :: back ∧ (∀ x ∈ front, ¬ P x) ∧ P e ∧ rest = front ++ back

/-- The response of a command with only a Boolean result. -/
def flagged (b : Bool) : Response := { flag := b }

/-- The response of a command with only a number as its result. -/
def valued (n : Nat) : Response := { val := BitVec.ofNat 64 n }

/-- The shape of the four maintenance predicates (R146): no sweep, the first full match is removed. -/
def ConsumesFirst (i : Instr) (s : State) (P : MaintEntry → Prop) : Prop :=
  (∀ e rest, FirstMatch P s.mb e rest → Completes i s [.maint] (flagged true) [] fun t => t.mb = rest) ∧
  ((∀ e ∈ s.mb, ¬ P e) → Completes i s [] (flagged false) [] fun _ => True)

/-- The value behind each assigned selector of CFG.GET (R92). -/
def selectorTable (s : State) : List (Nat × Dword) :=
  [(0, BitVec.ofNat 64 s.mbMaxLen.toNat), (1, s.mbTimeout),
    (2, BitVec.ofNat 64 s.pbMaxLen.toNat), (3, s.pbTimeout),
    (4, BitVec.ofNat 64 s.nqMaxSize.toNat), (5, s.nqMaxDelay),
    (8, BitVec.ofNat 64 s.params.mbSlots), (9, BitVec.ofNat 64 s.params.pbSlots),
    (10, BitVec.ofNat 64 s.params.nqSlots), (11, BitVec.ofNat 64 s.params.wbSize),
    (12, BitVec.ofNat 64 s.params.osbCap), (13, BitVec.ofNat 64 s.params.pad1Type.toNat),
    (14, BitVec.ofNat 64 s.params.padNType.toNat), (15, 8)]

/-- The status of the `now` test that opens a sweeping or stamping command (R205). -/
def nowStatus (now : Dword) : Status := if now.toNat < 2 ^ 63 then .ok else .errArg

/-- The status of the range test of a bound setter (R205). -/
def boundStatus (least slots : Nat) (n : Word) : Status :=
  if least ≤ n.toNat ∧ n.toNat ≤ slots then .ok else .errArg

/-- The pad OF.APPEND needs, as the least number of filler bytes that satisfies the contract (R100). -/
def leastPad (osz f o : Nat) : Nat := (o + f - (osz + 8) % f) % f

/-- The status of the element test of OPT.DECODE (R205, R206). -/
def decodeStatus (s : State) (k : Nat) : Status :=
  if s.osb.length ≤ k then .errArg
  else if s.osb[k]? = some s.params.pad1Type then .ok
  else if s.osb.length ≤ k + 1 then .errTrunc
  else if s.osb.length < k + 2 + ((s.osb[k + 1]?).getD 0).toNat then .errTrunc
  else .ok

/-- The status of a command's own checks, in the order of R208, from the causes of R205 to R207. -/
def ownStatus (s : State) : Instr → Status
  | .cfgGet sel => if sel.toNat ∈ [0, 1, 2, 3, 4, 5, 8, 9, 10, 11, 12, 13, 14, 15] then .ok else .errArg
  | .wbWrite a b =>
    if 255 < b.toNat then .errArg else if s.params.wbSize ≤ a.toNat then .errBounds else .ok
  | .wbRead a => if s.params.wbSize ≤ a.toNat then .errBounds else .ok
  | .ofCalcpad f _ => if f = 0 then .errArg else .ok
  | .ofAppend f o ty n a =>
    if f = 0 then .errArg
    else if ty = s.params.pad1Type ∨ ty = s.params.padNType then .errArg
    else if s.params.wbSize < a.toNat + n.toNat then .errBounds
    else if s.params.osbCap < s.osb.length + leastPad s.osb.length f.toNat o.toNat + 2 + n.toNat
      then .errOverflow
    else .ok
  | .ofSerialize a => if s.params.wbSize < a.toNat + roundUp4 s.osb.length then .errBounds else .ok
  | .ofDeserialize a n =>
    if s.params.osbCap < n.toNat then .errOverflow
    else if s.params.wbSize < a.toNat + n.toNat then .faultWireBounds else .ok
  | .ofRead k => if s.osb.length ≤ k.toNat then .errArg else .ok
  | .optDecode k => decodeStatus s k.toNat
  | .hdrSerialize a => if s.params.wbSize < a.toNat + 8 + roundUp4 s.osb.length then .errBounds else .ok
  | .hdrDeserialize a =>
    if s.params.wbSize < a.toNat + 8 then .faultWireBounds
    else if s.params.osbCap < declaredLen s a.toNat then .errOverflow
    else if s.params.wbSize < a.toNat + 8 + declaredLen s a.toNat then .faultWireBounds else .ok
  | .mbEnq _ now .. => nowStatus now
  | .mbDeq now _ => nowStatus now
  | .mbDropnh now _ => nowStatus now
  | .mbPurge now => nowStatus now
  | .mbSize now => nowStatus now
  | .mbSetmaxlen n => boundStatus 1 s.params.mbSlots n
  | .pbEnq _ now .. => nowStatus now
  | .pbDeq now _ => nowStatus now
  | .pbPurge now => nowStatus now
  | .pbSize now => nowStatus now
  | .pbSetmaxlen n => boundStatus 1 s.params.pbSlots n
  | .nqEnq now _ _ => nowStatus now
  | .nqDeq now => nowStatus now
  | .nqCleanup now => nowStatus now
  | .nqSize now => nowStatus now
  | .nqSetmaxsize n => boundStatus 0 s.params.nqSlots n
  | .sysReset | .sysStatus | .ofClear | .ofSize | .hdrSet .. | .hdrGet | .hdrSize | .mbFind .. | .mbAlleq ..
  | .mbNeteq .. | .mbPromeq .. | .mbLinkeq .. | .mbSettimeout .. | .pbFind .. | .pbAlleq ..
  | .pbSettimeout .. | .pbDroplink .. | .nqFind .. | .nqFindpop .. | .nqFlush | .nqSetmaxdelay .. => .ok

/-- The commands that run while the block is halted (R203). -/
def runsHalted : Instr → Bool
  | .sysReset => true
  | .sysStatus => true
  | _ => false

/-- The pieces of the state a command may change (R10, R11, R13, R15, R18, R20, R24 to R27). -/
def mayWrite : Instr → List Part
  | .sysReset =>
    [.header, .stream, .maint, .passive, .queue, .mbMaxLen, .mbTimeout, .pbMaxLen, .pbTimeout, .nqMaxSize,
      .nqMaxDelay, .status]
  | .wbWrite .. | .ofSerialize .. | .hdrSerialize .. => [.wire]
  | .ofClear | .ofAppend .. => [.stream]
  | .ofDeserialize .. => [.stream, .status]
  | .hdrSet .. => [.header]
  | .hdrDeserialize .. => [.header, .stream, .status]
  | .mbEnq .. | .mbDeq .. | .mbDropnh .. | .mbAlleq .. | .mbNeteq .. | .mbPromeq .. | .mbLinkeq ..
  | .mbPurge .. | .mbSize .. => [.maint]
  | .mbSetmaxlen .. => [.mbMaxLen]
  | .mbSettimeout .. => [.mbTimeout]
  | .pbEnq .. | .pbDeq .. | .pbAlleq .. | .pbPurge .. | .pbSize .. => [.passive]
  | .pbSetmaxlen .. => [.pbMaxLen]
  | .pbSettimeout .. => [.pbTimeout]
  | .nqEnq .. | .nqDeq .. | .nqFindpop .. | .nqFlush | .nqCleanup .. | .nqSize .. => [.queue]
  | .nqSetmaxsize .. => [.nqMaxSize]
  | .nqSetmaxdelay .. => [.nqMaxDelay]
  | .sysStatus | .cfgGet .. | .wbRead .. | .ofCalcpad .. | .ofSize | .ofRead .. | .optDecode .. | .hdrGet
  | .hdrSize | .mbFind .. | .pbFind .. | .pbDroplink .. | .nqFind .. => []

/-- The operands of one MB.ENQ. -/
structure MbCandidate where
  seg : Byte
  now : Dword
  pkt : Word
  our : Word
  nhop : Word
  src : Word
  dst : Word
  ack : Half

/-- The MB.ENQ with these operands. -/
def MbCandidate.command (c : MbCandidate) : Instr :=
  .mbEnq c.seg c.now c.pkt c.our c.nhop c.src c.dst c.ack

/-- The entry an MB.ENQ stores under a timeout (R132). -/
def MbCandidate.stored (timeout : Dword) (c : MbCandidate) : MaintEntry where
  pkt := c.pkt
  our := c.our
  nhop := c.nhop
  src := c.src
  dst := c.dst
  ack := c.ack
  seg := c.seg
  deadline := (c.now.toNat : Int) + timeout.toInt

/-- The state after the commands of a list have run in order, from a state on (R234). -/
def runAll (s : State) : List Instr → Option State
  | [] => some s
  | i :: is =>
    match exec i s with
    | .next t => runAll t is
    | .fault _ => none
    | .refused _ => none

/-- Rows 0 to 11 of spec/opcode_table.json: mnemonic, match, mask. -/
def opcodeRows0 : List (String × Nat × Nat) := [
  ("SYS.RESET", 0x010000000000000000000000000000000000000000000000000000000000000000000000000000000000000000000000,
    0xFFFFFFFFFFFFFFFFFFFFFFFFFFFFFFFFFFFFFFFFFFFFFFFFFFFFFFFFFFFFFFFFFFFFFFFFFFFFFFFFFFFFFFFFFFFFFFFF),
  ("SYS.STATUS", 0x020000000000000000000000000000000000000000000000000000000000000000000000000000000000000000000000,
    0xFFFFFFFFFFFFFFFFFFFFFFFFFFFFFFFFFFFFFFFFFFFFFFFFFFFFFFFFFFFFFFFFFFFFFFFFFFFFFFFFFFFFFFFFFFFFFFFF),
  ("CFG.GET", 0x030000000000000000000000000000000000000000000000000000000000000000000000000000000000000000000000,
    0xFFFFFFFFFFFFFFFFFFFFFFFFFFFFFFFFFFFFFFFFFFFFFFFFFFFFFFFFFFFFFFFFFFFFFFFFFFFFFFFF00000000FFFFFFFF),
  ("WB.WRITE", 0x080000000000000000000000000000000000000000000000000000000000000000000000000000000000000000000000,
    0xFFFFFFFFFFFFFFFFFFFFFFFFFFFFFFFFFFFFFFFFFFFFFFFFFFFFFFFFFFFFFFFFFFFFFFFFFFFFFFFF0000000000000000),
  ("WB.READ", 0x090000000000000000000000000000000000000000000000000000000000000000000000000000000000000000000000,
    0xFFFFFFFFFFFFFFFFFFFFFFFFFFFFFFFFFFFFFFFFFFFFFFFFFFFFFFFFFFFFFFFFFFFFFFFFFFFFFFFF00000000FFFFFFFF),
  ("OF.CLEAR", 0x100000000000000000000000000000000000000000000000000000000000000000000000000000000000000000000000,
    0xFFFFFFFFFFFFFFFFFFFFFFFFFFFFFFFFFFFFFFFFFFFFFFFFFFFFFFFFFFFFFFFFFFFFFFFFFFFFFFFFFFFFFFFFFFFFFFFF),
  ("OF.CALCPAD", 0x110000000000000000000000000000000000000000000000000000000000000000000000000000000000000000000000,
    0xFFFF0000FFFFFFFFFFFFFFFFFFFFFFFFFFFFFFFFFFFFFFFFFFFFFFFFFFFFFFFFFFFFFFFFFFFFFFFFFFFFFFFFFFFFFFFF),
  ("OF.APPEND", 0x120000000000000000000000000000000000000000000000000000000000000000000000000000000000000000000000,
    0xFFFF0000FFFFFFFFFFFFFFFFFFFFFFFFFFFFFFFFFFFFFFFFFFFFFFFFFFFFFFFFFFFFFFFFFFFF000000000000FFFFFFFF),
  ("OF.SIZE", 0x130000000000000000000000000000000000000000000000000000000000000000000000000000000000000000000000,
    0xFFFFFFFFFFFFFFFFFFFFFFFFFFFFFFFFFFFFFFFFFFFFFFFFFFFFFFFFFFFFFFFFFFFFFFFFFFFFFFFFFFFFFFFFFFFFFFFF),
  ("OF.SERIALIZE", 0x140000000000000000000000000000000000000000000000000000000000000000000000000000000000000000000000,
    0xFFFFFFFFFFFFFFFFFFFFFFFFFFFFFFFFFFFFFFFFFFFFFFFFFFFFFFFFFFFFFFFFFFFFFFFFFFFFFFFF00000000FFFFFFFF),
  ("OF.DESERIALIZE", 0x150000000000000000000000000000000000000000000000000000000000000000000000000000000000000000000000,
    0xFFFFFFFFFFFFFFFFFFFFFFFFFFFFFFFFFFFFFFFFFFFFFFFFFFFFFFFFFFFFFFFFFFFFFFFFFFFFFFFF0000000000000000),
  ("OF.READ", 0x160000000000000000000000000000000000000000000000000000000000000000000000000000000000000000000000,
    0xFFFFFFFFFFFFFFFFFFFFFFFFFFFFFFFFFFFFFFFFFFFFFFFFFFFFFFFFFFFFFFFFFFFFFFFFFFFFFFFF00000000FFFFFFFF)]

/-- Rows 12 to 23 of spec/opcode_table.json: mnemonic, match, mask. -/
def opcodeRows1 : List (String × Nat × Nat) := [
  ("OPT.DECODE", 0x170000000000000000000000000000000000000000000000000000000000000000000000000000000000000000000000,
    0xFFFFFFFFFFFFFFFFFFFFFFFFFFFFFFFFFFFFFFFFFFFFFFFFFFFFFFFFFFFFFFFFFFFFFFFFFFFFFFFF00000000FFFFFFFF),
  ("HDR.SET", 0x180000000000000000000000000000000000000000000000000000000000000000000000000000000000000000000000,
    0xFFFFFFFFFFFFFFFFFFFFFFFFFFFFFFFFFFFFFFFFFFFFFFFFFFFFFFFFFFFFFFFF0000000000000000FFFFFFFFFFFFFFFF),
  ("HDR.GET", 0x190000000000000000000000000000000000000000000000000000000000000000000000000000000000000000000000,
    0xFFFFFFFFFFFFFFFFFFFFFFFFFFFFFFFFFFFFFFFFFFFFFFFFFFFFFFFFFFFFFFFFFFFFFFFFFFFFFFFFFFFFFFFFFFFFFFFF),
  ("HDR.SIZE", 0x1A0000000000000000000000000000000000000000000000000000000000000000000000000000000000000000000000,
    0xFFFFFFFFFFFFFFFFFFFFFFFFFFFFFFFFFFFFFFFFFFFFFFFFFFFFFFFFFFFFFFFFFFFFFFFFFFFFFFFFFFFFFFFFFFFFFFFF),
  ("HDR.SERIALIZE", 0x1B0000000000000000000000000000000000000000000000000000000000000000000000000000000000000000000000,
    0xFFFFFFFFFFFFFFFFFFFFFFFFFFFFFFFFFFFFFFFFFFFFFFFFFFFFFFFFFFFFFFFFFFFFFFFFFFFFFFFF00000000FFFFFFFF),
  ("HDR.DESERIALIZE", 0x1C0000000000000000000000000000000000000000000000000000000000000000000000000000000000000000000000,
    0xFFFFFFFFFFFFFFFFFFFFFFFFFFFFFFFFFFFFFFFFFFFFFFFFFFFFFFFFFFFFFFFFFFFFFFFFFFFFFFFF00000000FFFFFFFF),
  ("MB.ENQ", 0x200000000000000000000000000000000000000000000000000000000000000000000000000000000000000000000000,
    0xFF00FFFF000000000000000000000000000000000000000000000000000000000000FFFFFFFFFFFFFFFFFFFFFFFFFFFF),
  ("MB.DEQ", 0x210000000000000000000000000000000000000000000000000000000000000000000000000000000000000000000000,
    0xFFFFFFFF0000000000000000FFFFFFFFFFFFFFFF00000000FFFFFFFFFFFFFFFFFFFFFFFFFFFFFFFFFFFFFFFFFFFFFFFF),
  ("MB.FIND", 0x220000000000000000000000000000000000000000000000000000000000000000000000000000000000000000000000,
    0xFFFFFFFFFFFFFFFFFFFFFFFFFFFFFFFFFFFFFFFF00000000FFFFFFFFFFFFFFFFFFFFFFFFFFFFFFFFFFFFFFFFFFFFFFFF),
  ("MB.DROPNH", 0x230000000000000000000000000000000000000000000000000000000000000000000000000000000000000000000000,
    0xFFFFFFFF0000000000000000FFFFFFFFFFFFFFFF00000000FFFFFFFFFFFFFFFFFFFFFFFFFFFFFFFFFFFFFFFFFFFFFFFF),
  ("MB.ALLEQ", 0x240000000000000000000000000000000000000000000000000000000000000000000000000000000000000000000000,
    0xFF00FFFFFFFFFFFFFFFFFFFFFFFFFFFF000000000000000000000000000000000000FFFFFFFFFFFFFFFFFFFFFFFFFFFF),
  ("MB.NETEQ", 0x250000000000000000000000000000000000000000000000000000000000000000000000000000000000000000000000,
    0xFFFFFFFFFFFFFFFFFFFFFFFFFFFFFFFF000000000000000000000000000000000000FFFFFFFFFFFFFFFFFFFFFFFFFFFF)]

/-- Rows 24 to 35 of spec/opcode_table.json: mnemonic, match, mask. -/
def opcodeRows2 : List (String × Nat × Nat) := [
  ("MB.PROMEQ", 0x260000000000000000000000000000000000000000000000000000000000000000000000000000000000000000000000,
    0xFF00FFFFFFFFFFFFFFFFFFFFFFFFFFFFFFFFFFFFFFFFFFFF00000000000000000000FFFFFFFFFFFFFFFFFFFFFFFFFFFF),
  ("MB.LINKEQ", 0x270000000000000000000000000000000000000000000000000000000000000000000000000000000000000000000000,
    0xFFFFFFFFFFFFFFFFFFFFFFFFFFFFFFFF00000000000000000000000000000000FFFFFFFFFFFFFFFFFFFFFFFFFFFFFFFF),
  ("MB.PURGE", 0x280000000000000000000000000000000000000000000000000000000000000000000000000000000000000000000000,
    0xFFFFFFFF0000000000000000FFFFFFFFFFFFFFFFFFFFFFFFFFFFFFFFFFFFFFFFFFFFFFFFFFFFFFFFFFFFFFFFFFFFFFFF),
  ("MB.SIZE", 0x290000000000000000000000000000000000000000000000000000000000000000000000000000000000000000000000,
    0xFFFFFFFF0000000000000000FFFFFFFFFFFFFFFFFFFFFFFFFFFFFFFFFFFFFFFFFFFFFFFFFFFFFFFFFFFFFFFFFFFFFFFF),
  ("MB.SETMAXLEN", 0x2A0000000000000000000000000000000000000000000000000000000000000000000000000000000000000000000000,
    0xFFFFFFFFFFFFFFFFFFFFFFFFFFFFFFFFFFFFFFFFFFFFFFFFFFFFFFFFFFFFFFFFFFFFFFFFFFFFFFFF00000000FFFFFFFF),
  ("MB.SETTIMEOUT", 0x2B0000000000000000000000000000000000000000000000000000000000000000000000000000000000000000000000,
    0xFFFFFFFFFFFFFFFFFFFFFFFFFFFFFFFFFFFFFFFFFFFFFFFFFFFFFFFFFFFFFFFFFFFFFFFFFFFFFFFF0000000000000000),
  ("PB.ENQ", 0x300000000000000000000000000000000000000000000000000000000000000000000000000000000000000000000000,
    0xFF00FFFF000000000000000000000000FFFFFFFF000000000000000000000000000000000000FFFFFFFFFFFFFFFFFFFF),
  ("PB.DEQ", 0x310000000000000000000000000000000000000000000000000000000000000000000000000000000000000000000000,
    0xFFFFFFFF0000000000000000FFFFFFFFFFFFFFFF00000000FFFFFFFFFFFFFFFFFFFFFFFFFFFFFFFFFFFFFFFFFFFFFFFF),
  ("PB.FIND", 0x320000000000000000000000000000000000000000000000000000000000000000000000000000000000000000000000,
    0xFFFFFFFFFFFFFFFFFFFFFFFFFFFFFFFFFFFFFFFF00000000FFFFFFFFFFFFFFFFFFFFFFFFFFFFFFFFFFFFFFFFFFFFFFFF),
  ("PB.ALLEQ", 0x340000000000000000000000000000000000000000000000000000000000000000000000000000000000000000000000,
    0xFF00FFFFFFFFFFFFFFFFFFFFFFFFFFFFFFFFFFFF000000000000000000000000000000000000FFFFFFFFFFFFFFFFFFFF),
  ("PB.PURGE", 0x380000000000000000000000000000000000000000000000000000000000000000000000000000000000000000000000,
    0xFFFFFFFF0000000000000000FFFFFFFFFFFFFFFFFFFFFFFFFFFFFFFFFFFFFFFFFFFFFFFFFFFFFFFFFFFFFFFFFFFFFFFF),
  ("PB.SIZE", 0x390000000000000000000000000000000000000000000000000000000000000000000000000000000000000000000000,
    0xFFFFFFFF0000000000000000FFFFFFFFFFFFFFFFFFFFFFFFFFFFFFFFFFFFFFFFFFFFFFFFFFFFFFFFFFFFFFFFFFFFFFFF)]

/-- Rows 36 to 47 of spec/opcode_table.json: mnemonic, match, mask. -/
def opcodeRows3 : List (String × Nat × Nat) := [
  ("PB.SETMAXLEN", 0x3A0000000000000000000000000000000000000000000000000000000000000000000000000000000000000000000000,
    0xFFFFFFFFFFFFFFFFFFFFFFFFFFFFFFFFFFFFFFFFFFFFFFFFFFFFFFFFFFFFFFFFFFFFFFFFFFFFFFFF00000000FFFFFFFF),
  ("PB.SETTIMEOUT", 0x3B0000000000000000000000000000000000000000000000000000000000000000000000000000000000000000000000,
    0xFFFFFFFFFFFFFFFFFFFFFFFFFFFFFFFFFFFFFFFFFFFFFFFFFFFFFFFFFFFFFFFFFFFFFFFFFFFFFFFF0000000000000000),
  ("PB.DROPLINK", 0x3C0000000000000000000000000000000000000000000000000000000000000000000000000000000000000000000000,
    0xFFFFFFFFFFFFFFFFFFFFFFFF00000000FFFFFFFF0000000000000000FFFFFFFFFFFFFFFFFFFFFFFFFFFFFFFFFFFFFFFF),
  ("NQ.ENQ", 0x400000000000000000000000000000000000000000000000000000000000000000000000000000000000000000000000,
    0xFFFFFFFF000000000000000000000000FFFFFFFF00000000FFFFFFFFFFFFFFFFFFFFFFFFFFFFFFFFFFFFFFFFFFFFFFFF),
  ("NQ.DEQ", 0x410000000000000000000000000000000000000000000000000000000000000000000000000000000000000000000000,
    0xFFFFFFFF0000000000000000FFFFFFFFFFFFFFFFFFFFFFFFFFFFFFFFFFFFFFFFFFFFFFFFFFFFFFFFFFFFFFFFFFFFFFFF),
  ("NQ.FIND", 0x420000000000000000000000000000000000000000000000000000000000000000000000000000000000000000000000,
    0xFFFFFFFFFFFFFFFFFFFFFFFFFFFFFFFFFFFFFFFF00000000FFFFFFFFFFFFFFFFFFFFFFFFFFFFFFFFFFFFFFFFFFFFFFFF),
  ("NQ.FINDPOP", 0x430000000000000000000000000000000000000000000000000000000000000000000000000000000000000000000000,
    0xFFFFFFFFFFFFFFFFFFFFFFFFFFFFFFFFFFFFFFFF00000000FFFFFFFFFFFFFFFFFFFFFFFFFFFFFFFFFFFFFFFFFFFFFFFF),
  ("NQ.FLUSH", 0x440000000000000000000000000000000000000000000000000000000000000000000000000000000000000000000000,
    0xFFFFFFFFFFFFFFFFFFFFFFFFFFFFFFFFFFFFFFFFFFFFFFFFFFFFFFFFFFFFFFFFFFFFFFFFFFFFFFFFFFFFFFFFFFFFFFFF),
  ("NQ.CLEANUP", 0x480000000000000000000000000000000000000000000000000000000000000000000000000000000000000000000000,
    0xFFFFFFFF0000000000000000FFFFFFFFFFFFFFFFFFFFFFFFFFFFFFFFFFFFFFFFFFFFFFFFFFFFFFFFFFFFFFFFFFFFFFFF),
  ("NQ.SIZE", 0x490000000000000000000000000000000000000000000000000000000000000000000000000000000000000000000000,
    0xFFFFFFFF0000000000000000FFFFFFFFFFFFFFFFFFFFFFFFFFFFFFFFFFFFFFFFFFFFFFFFFFFFFFFFFFFFFFFFFFFFFFFF),
  ("NQ.SETMAXSIZE", 0x4A0000000000000000000000000000000000000000000000000000000000000000000000000000000000000000000000,
    0xFFFFFFFFFFFFFFFFFFFFFFFFFFFFFFFFFFFFFFFFFFFFFFFFFFFFFFFFFFFFFFFFFFFFFFFFFFFFFFFF00000000FFFFFFFF),
  ("NQ.SETMAXDELAY", 0x4B0000000000000000000000000000000000000000000000000000000000000000000000000000000000000000000000,
    0xFFFFFFFFFFFFFFFFFFFFFFFFFFFFFFFFFFFFFFFFFFFFFFFFFFFFFFFFFFFFFFFFFFFFFFFFFFFFFFFF0000000000000000)]

/-- The opcode table (R63). -/
def opcodeTable : List (String × Nat × Nat) := opcodeRows0 ++ opcodeRows1 ++ opcodeRows2 ++ opcodeRows3

/-- A descriptor matches a row: every bit the row fixes has the row's value (R64). -/
def MatchesRow (row : String × Nat × Nat) (d : Desc) : Prop :=
  d &&& BitVec.ofNat 384 row.2.2 = BitVec.ofNat 384 row.2.1

/-- The state right after a reset on an instance, WB apart (R33). -/
def ResetValues (p : Params) (t : State) : Prop :=
  t.hdr.nextHeader = 0 ∧ t.hdr.messageType = 0 ∧ t.hdr.sourceId = 0 ∧ t.hdr.destId = 0 ∧
  t.hdr.payloadLen = 0 ∧ t.osb = [] ∧ t.mb = [] ∧ t.pb = [] ∧ t.nq = [] ∧
  t.mbMaxLen.toNat = p.mbSlots ∧ t.pbMaxLen.toNat = p.pbSlots ∧ t.nqMaxSize.toNat = p.nqSlots ∧
  t.mbTimeout = 0 ∧ t.pbTimeout = 0 ∧ t.nqMaxDelay = 0 ∧
  t.fault = false ∧ t.fcause = 0 ∧ t.finfo = 0

/-- The passive entries that an event list reports as dropped. -/
def droppedEntries (evs : List Event) : List PassiveEntry :=
  evs.filterMap fun ev =>
    match ev with
    | .drop _ e => some e
    | .dropLink .. => none

/-- The passive entry that a response hands over. -/
def handedOver (r : Response) : List PassiveEntry :=
  match r.entry with
  | some (.passive e) => [e]
  | _ => []

/-- A command that runs the passive sweep at `now` (R161). -/
def SweepsPassive (now : Dword) (i : Instr) : Prop :=
  (∃ seg pkt nhop src dst pid ident foff, i = .pbEnq seg now pkt nhop src dst pid ident foff) ∨
  (∃ key, i = .pbDeq now key) ∨ i = .pbPurge now ∨ i = .pbSize now

/-- If the status after the command is neither OK nor the fault, the response is 0 but for it, there is no
event, and every piece of the state is as before (R204). -/
def CleanRefusal (s t : State) : Prop :=
  t.resp.status ≠ .ok → t.resp.status ≠ .faultWireBounds →
    t.resp = { status := t.resp.status } ∧ t.events = [] ∧ Frame [] s t

/-- A store's contents after a command: what is left of the old ones in their order, then at most one new
entry, which only a command of the kind `enq` adds. -/
def KeepsOrder {α : Type} (enq : Prop) (before after : List α) : Prop :=
  ∃ kept new, kept.Sublist before ∧ after = kept ++ new ∧ new.length ≤ 1 ∧ (new ≠ [] → enq)

end Sys2Proof.Spec

open Sys2Proof Sys2Proof.Machine Sys2Proof.Spec

/-! ## Encoding and the step -/

/-- 30_encoding.md: descriptors of the spec's examples, written out, decode to the commands they stand for. -/
def Obligations.DecodeWrittenDescriptors : Prop :=
  decode 0x010000000000000000000000000000000000000000000000000000000000000000000000000000000000000000000000#384
    = .ok .sysReset ∧
  decode 0x0800000000000000000000000000000000000000000000000000000000000000000000000000000000000100000000AA#384
    = .ok (.wbWrite 0x100 0xAA) ∧
  decode 0x120008020000000000000000000000000000000000000000000000000000000000000000000061060000011000000000#384
    = .ok (.ofAppend 8 2 0x61 6 0x110) ∧
  decode 0x18000000000000000000000000000000000000000000000000000000000000000A0B0C0D001411020000000000000000#384
    = .ok (.hdrSet 0x0A0B 0x0C0D 20 0x11 0x02) ∧
  decode 0x2004000000000000000000640000000A0000000100000058000000020000000300070000000000000000000000000000#384
    = .ok (.mbEnq 4 100 0xA 1 0x58 2 3 7) ∧
  decode 0x30020000000000000000000B000000520000000000000058000000020000000300640007000000000000000000000000#384
    = .ok (.pbEnq 2 11 0x52 0x58 2 3 100 7 0) ∧
  decode 0x400000000000000000000000000000F10000000000000058000000000000000000000000000000000000000000000000#384
    = .ok (.nqEnq 0 0xF1 0x58)

/-- R63, R65, R84: encoding a command and decoding its descriptor gives the command back, with every operand
at every value its field admits. -/
def Obligations.DecodeEncode : Prop := ∀ i : Instr, decode (encode i) = .ok i

/-- R64: a command has one descriptor only: what decodes to it is its encoding, bit for bit. -/
def Obligations.EncodeDecode : Prop := ∀ (d : Desc) (i : Instr), decode d = .ok i → encode i = d

/-- R63, R84: a descriptor matches a row of the opcode table exactly if it decodes to a command of that row's
mnemonic, and it decodes to no command exactly if it matches no row. -/
def Obligations.OpcodeTableSelects : Prop :=
  ∀ d : Desc,
    (∀ row ∈ opcodeTable, MatchesRow row d ↔ ∃ i, decode d = .ok i ∧ i.mnemonic = row.1) ∧
    ((∀ row ∈ opcodeTable, ¬ MatchesRow row d) ↔ ∃ e, decode d = .error e)

/-- R2: a step runs the command that the next descriptor decodes to, on the state with that descriptor
consumed; with none presented nothing changes (R211; log 3 for the list of descriptors to come). -/
def Obligations.StepRunsDecodedCommand : Prop :=
  ∀ s : State,
    (∀ d rest i, s.input = d :: rest → decode d = .ok i → step s = exec i { s with input := rest }) ∧
    (s.input = [] → step s = .next s) ∧
    (∀ i, step (s.withFetchWord 384 (encode i).toNat) = exec i s)

/-- R73, R202: a descriptor that matches no row of the opcode table is refused with ERR_ILLEGAL, halted or
not; no state changes and there are no events. The all-zero descriptor and 0x33, 0x35, 0x36, 0x37 and every
opcode above 0x4B are such. -/
def Obligations.IllegalDescriptorRefused : Prop :=
  (∀ (s : State) (d : Desc) (rest : List Desc), s.input = d :: rest →
    (∀ row ∈ opcodeTable, ¬ MatchesRow row d) →
    ∃ t, step s = .next t ∧ t.resp = { status := .errIllegal } ∧ t.events = [] ∧ t.input = rest ∧
      Frame [.input] s t) ∧
  (∀ (d : Desc), d = 0 ∨ (Fields.ofDesc d).op.toNat ∈ [0x33, 0x35, 0x36, 0x37] ∨
      0x4C ≤ (Fields.ofDesc d).op.toNat →
    ∀ row ∈ opcodeTable, ¬ MatchesRow row d)

/-- R3: every descriptor in every state has an outcome, after which the block takes the next descriptor, and
an outcome whose status is not OK leaves the state as it was, but for the status registers under the fault. -/
def Obligations.EveryDescriptorHasOneOutcome : Prop :=
  ∀ (s : State) (d : Desc), ∃ t, step (s.present d) = .next t ∧ t.input = s.input ∧
    (t.resp.status ≠ .ok → t.resp.status ≠ .faultWireBounds → Frame [] s t) ∧
    (t.resp.status = .faultWireBounds → Frame [.status] s t)

/-! ## Reset and the invariant -/

/-- R33, R90: every register and store right after power-on on any well-formed instance, and after SYS.RESET,
which leaves WB as it was. Two clauses are the model's and not R33's: that State.reset is the instance with
R1's value column (DESIGN CHOICE, log 1), and that a byte of WB reads after power-on as the free value
Config.wbPowerOn at its address (DEDUCED, log 4). -/
def Obligations.ResetStateValues : Prop :=
  (∀ p : Params, p.wf →
    ResetValues p (State.powerOn p) ∧ ∀ a, (State.powerOn p).readByte a = Config.wbPowerOn a) ∧
  State.reset = State.powerOn Params.default ∧
  (∀ s : State, s.params.wf →
    ∃ t, exec .sysReset s = .next t ∧ ResetValues s.params t ∧ ∀ a, t.readByte a = s.readByte a)

/-- The invariant holds of the machine right after reset. -/
def Obligations.InvAtReset : Prop := Inv State.reset

/-- Every step keeps the invariant: the buffers fit their slots, the bounds are legal, no two maintenance
entries agree on their keys, no passive entry is a duplicate of an earlier one, deadlines and time stamps are
in range, WB keeps its canonical form and the status registers agree. -/
def Obligations.InvKeptByStep : Prop := ∀ s t : State, Inv s → step s = .next t → Inv t

/-! ## System and wire-buffer commands -/

/-- R90, R231: SYS.RESET, halted or not. -/
def Obligations.SysReset : Prop :=
  ∀ s : State, Encodes .sysReset { op := 0x01 } ∧
    Completes .sysReset s
      [.header, .stream, .maint, .passive, .queue, .mbMaxLen, .mbTimeout, .pbMaxLen, .pbTimeout, .nqMaxSize,
        .nqMaxDelay, .status] {} []
      fun t => s.params.wf → ResetValues s.params t

/-- R91: SYS.STATUS, halted or not. -/
def Obligations.SysStatus : Prop :=
  ∀ s : State, Encodes .sysStatus { op := 0x02 } ∧
    Completes .sysStatus s []
      { flag := s.fault, val := BitVec.ofNat 64 s.fcause.toNat, val2 := BitVec.ofNat 64 s.finfo.toNat } []
      fun _ => True

/-- R92: CFG.GET. -/
def Obligations.CfgGet : Prop :=
  ∀ (s : State) (sel : Word), s.fault = false →
    Encodes (.cfgGet sel) { op := 0x03, arg := sel } ∧
    (∀ v, (sel.toNat, v) ∈ selectorTable s → Completes (.cfgGet sel) s [] { val := v } [] fun _ => True) ∧
    (sel.toNat ∉ [0, 1, 2, 3, 4, 5, 8, 9, 10, 11, 12, 13, 14, 15] → Refuses (.cfgGet sel) s .errArg)

/-- R93: WB.WRITE. -/
def Obligations.WbWrite : Prop :=
  ∀ (s : State) (a b : Word), s.fault = false →
    Encodes (.wbWrite a b) { op := 0x08, arg := a, arg2 := b } ∧
    (255 < b.toNat → Refuses (.wbWrite a b) s .errArg) ∧
    (b.toNat ≤ 255 → s.params.wbSize ≤ a.toNat → Refuses (.wbWrite a b) s .errBounds) ∧
    (b.toNat ≤ 255 → a.toNat < s.params.wbSize →
      Completes (.wbWrite a b) s [.wire] {} [] fun t => Stores s t a.toNat [BitVec.ofNat 8 b.toNat])

/-- R94: WB.READ. -/
def Obligations.WbRead : Prop :=
  ∀ (s : State) (a : Word), s.fault = false →
    Encodes (.wbRead a) { op := 0x09, arg := a } ∧
    (s.params.wbSize ≤ a.toNat → Refuses (.wbRead a) s .errBounds) ∧
    (a.toNat < s.params.wbSize →
      Completes (.wbRead a) s [] (valued (s.readByte a.toNat).toNat) [] fun _ => True)

/-! ## Refusals, the fault and their order -/

/-- R203: while STATUS.FAULT = 1 every command but SYS.RESET and SYS.STATUS is refused with ERR_HALTED, with no
effect and no event. -/
def Obligations.HaltedRefusesAll : Prop :=
  ∀ (i : Instr) (s : State), s.fault = true → runsHalted i = false → Refuses i s .errHalted

/-- R204: a command, or a descriptor of any kind, that ends with neither OK nor the fault leaves every piece of
state as it was, and its response is otherwise zero. -/
def Obligations.RefusalChangesNothing : Prop :=
  ∀ s : State,
    (∀ i : Instr, ∃ t, exec i s = .next t ∧ CleanRefusal s t) ∧
    (∀ d : Desc, ∃ t, step (s.present d) = .next t ∧ CleanRefusal s t)

/-- R205, R206, R208: which status each descriptor gets in each state, with the order of the tests. -/
def Obligations.StatusFollowsCheckOrder : Prop :=
  ∀ (s : State) (d : Desc) (rest : List Desc), s.input = d :: rest →
    ∃ t, step s = .next t ∧
      ((∃ e, decode d = .error e) → t.resp.status = .errIllegal) ∧
      ∀ i, decode d = .ok i →
        t.resp.status = if s.fault = true ∧ runsHalted i = false then .errHalted else ownStatus s i

/-- R207: the fault is taken by the two deserialize commands when their range leaves WB, and by nothing else;
it writes the three status registers and nothing more, and its response is otherwise zero. -/
def Obligations.FaultEffect : Prop :=
  (∀ (s : State) (a n : Word), s.fault = false → n.toNat ≤ s.params.osbCap →
    s.params.wbSize < a.toNat + n.toNat → Faults (.ofDeserialize a n) s a) ∧
  (∀ (s : State) (a : Word), s.fault = false →
    (s.params.wbSize < a.toNat + 8 ∨
      declaredLen s a.toNat ≤ s.params.osbCap ∧
        s.params.wbSize < a.toNat + 8 + declaredLen s a.toNat) →
    Faults (.hdrDeserialize a) s a) ∧
  (∀ (i : Instr) (s t : State), exec i s = .next t → t.resp.status = .faultWireBounds →
    s.fault = false ∧
    ((∃ a n, i = .ofDeserialize a n ∧ s.params.wbSize < a.toNat + n.toNat) ∨
      ∃ a, i = .hdrDeserialize a ∧
        (s.params.wbSize < a.toNat + 8 ∨ s.params.wbSize < a.toNat + 8 + declaredLen s a.toNat)))

/-- R210: once halted, the block stays as it is, status registers included, for as long as no descriptor is
SYS.RESET, whatever else is presented. -/
def Obligations.FaultSticky : Prop :=
  ∀ (n : Nat) (s : State), s.fault = true → (∀ d ∈ s.input.take n, decode d ≠ .ok .sysReset) →
    ∃ t : State, Host.Core.run core n s = .next t ∧ Frame [.input] s t ∧ t.input = s.input.drop n

/-! ## Option codec and option field -/

/-- R100, R103: OF.CALCPAD answers the pad, the one number below the factor that brings the end of the stream,
counted from the header's start, to the offset. -/
def Obligations.CalcPad : Prop :=
  ∀ (s : State) (f o : Byte), s.fault = false →
    Encodes (.ofCalcpad f o) { op := 0x11, afac := f, aoff := o } ∧
    (f = 0 → Refuses (.ofCalcpad f o) s .errArg) ∧
    (f ≠ 0 → ∃ pad, IsPad s.osb.length f.toNat o.toNat pad ∧
      Completes (.ofCalcpad f o) s [] (valued pad) [] fun _ => True)

/-- R104: OF.APPEND. -/
def Obligations.OfAppend : Prop :=
  ∀ (s : State) (f o ty n : Byte) (a : Word), s.fault = false →
    Encodes (.ofAppend f o ty n a) { op := 0x12, afac := f, aoff := o, otype := ty, olen := n, arg := a } ∧
    (f = 0 → Refuses (.ofAppend f o ty n a) s .errArg) ∧
    (f ≠ 0 → ty = s.params.pad1Type ∨ ty = s.params.padNType → Refuses (.ofAppend f o ty n a) s .errArg) ∧
    (f ≠ 0 → ty ≠ s.params.pad1Type → ty ≠ s.params.padNType →
      (s.params.wbSize < a.toNat + n.toNat → Refuses (.ofAppend f o ty n a) s .errBounds) ∧
      (a.toNat + n.toNat ≤ s.params.wbSize → ∀ pad, IsPad s.osb.length f.toNat o.toNat pad →
        (s.params.osbCap < s.osb.length + pad + 2 + n.toNat →
          Refuses (.ofAppend f o ty n a) s .errOverflow) ∧
        (s.osb.length + pad + 2 + n.toNat ≤ s.params.osbCap →
          Completes (.ofAppend f o ty n a) s [.stream]
            { val := BitVec.ofNat 64 (s.osb.length + pad), val2 := BitVec.ofNat 64 pad } []
            fun t => t.osb = s.osb ++ fillerOf s.params pad ++ [ty, n] ++ wireBytes s a.toNat n.toNat)))

/-- R109: after a successful OF.APPEND the option's type byte stands at the index the command returned, and
that place satisfies the alignment contract. -/
def Obligations.AppendAlignment : Prop :=
  ∀ (s t : State) (f o ty n : Byte) (a : Word), s.params.wf →
    exec (.ofAppend f o ty n a) s = .next t → t.resp.status = .ok →
    t.osb[t.resp.val.toNat]? = some ty ∧ (t.resp.val.toNat + 8) % f.toNat = o.toNat % f.toNat

/-- R102, R105: OF.CLEAR and OF.SIZE. -/
def Obligations.OfClearSize : Prop :=
  ∀ s : State, s.fault = false →
    Encodes .ofClear { op := 0x10 } ∧ Encodes .ofSize { op := 0x13 } ∧
    (Completes .ofClear s [.stream] {} [] fun t => t.osb = []) ∧
    (Completes .ofSize s [] (valued (roundUp4 s.osb.length)) [] fun _ => True)

/-- R106: OF.SERIALIZE. -/
def Obligations.OfSerialize : Prop :=
  ∀ (s : State) (a : Word), s.fault = false →
    Encodes (.ofSerialize a) { op := 0x14, arg := a } ∧
    (s.params.wbSize < a.toNat + roundUp4 s.osb.length → Refuses (.ofSerialize a) s .errBounds) ∧
    (a.toNat + roundUp4 s.osb.length ≤ s.params.wbSize →
      Completes (.ofSerialize a) s [.wire] (valued (roundUp4 s.osb.length)) []
        fun t => Stores s t a.toNat (emitted s.params s.osb))

/-- R107: OF.DESERIALIZE. -/
def Obligations.OfDeserialize : Prop :=
  ∀ (s : State) (a n : Word), s.fault = false →
    Encodes (.ofDeserialize a n) { op := 0x15, arg := a, arg2 := n } ∧
    (s.params.osbCap < n.toNat → Refuses (.ofDeserialize a n) s .errOverflow) ∧
    (n.toNat ≤ s.params.osbCap → s.params.wbSize < a.toNat + n.toNat → Faults (.ofDeserialize a n) s a) ∧
    (n.toNat ≤ s.params.osbCap → a.toNat + n.toNat ≤ s.params.wbSize →
      Completes (.ofDeserialize a n) s [.stream] (valued n.toNat) []
        fun t => t.osb = wireBytes s a.toNat n.toNat)

/-- R108: OF.READ. -/
def Obligations.OfRead : Prop :=
  ∀ (s : State) (k : Word), s.fault = false →
    Encodes (.ofRead k) { op := 0x16, arg := k } ∧
    (s.osb.length ≤ k.toNat → Refuses (.ofRead k) s .errArg) ∧
    (∀ b, s.osb[k.toNat]? = some b → Completes (.ofRead k) s [] (valued b.toNat) [] fun _ => True)

/-- R110: OPT.DECODE. -/
def Obligations.OptDecode : Prop :=
  ∀ (s : State) (k : Word), s.fault = false →
    Encodes (.optDecode k) { op := 0x17, arg := k } ∧
    (s.osb.length ≤ k.toNat → Refuses (.optDecode k) s .errArg) ∧
    (s.osb[k.toNat]? = some s.params.pad1Type →
      Completes (.optDecode k) s []
        { val := 1, val2 := BitVec.ofNat 64 (1 * 65536 + s.params.pad1Type.toNat * 256) } [] fun _ => True) ∧
    (∀ ty, s.osb[k.toNat]? = some ty → ty ≠ s.params.pad1Type →
      (s.osb.length ≤ k.toNat + 1 → Refuses (.optDecode k) s .errTrunc) ∧
      (∀ n, s.osb[k.toNat + 1]? = some n →
        (s.osb.length < k.toNat + 2 + n.toNat → Refuses (.optDecode k) s .errTrunc) ∧
        (k.toNat + 2 + n.toNat ≤ s.osb.length →
          Completes (.optDecode k) s []
            { val := BitVec.ofNat 64 (2 + n.toNat)
              val2 := BitVec.ofNat 64
                ((if ty = s.params.padNType then 2 else 0) * 65536 + ty.toNat * 256 + n.toNat) } []
            fun _ => True)))

/-- An option appended can be decoded: OPT.DECODE at the index OF.APPEND returned answers the option's size,
kind 0, its type tag and its length, and the payload that follows is the one taken from WB. -/
def Obligations.AppendThenDecode : Prop :=
  ∀ (s t : State) (f o ty n : Byte) (a k : Word), s.params.wf →
    exec (.ofAppend f o ty n a) s = .next t → t.resp.status = .ok → t.resp.val = k.setWidth 64 →
    (Completes (.optDecode k) t []
      { val := BitVec.ofNat 64 (2 + n.toNat), val2 := BitVec.ofNat 64 (ty.toNat * 256 + n.toNat) } []
      fun _ => True) ∧
    t.osb.drop (k.toNat + 2) = wireBytes s a.toNat n.toNat

/-! ## Header -/

/-- R120, R121: HDR.SET and HDR.GET. -/
def Obligations.HdrSetGet : Prop :=
  ∀ (s : State) (sid did plen : Half) (nh mt : Byte), s.fault = false →
    Encodes (.hdrSet sid did plen nh mt)
      { op := 0x18, ida := sid, idb := did, foff := plen, otype := nh, olen := mt } ∧
    Encodes .hdrGet { op := 0x19 } ∧
    (Completes (.hdrSet sid did plen nh mt) s [.header] {} [] fun t =>
      t.hdr.nextHeader = nh ∧ t.hdr.messageType = mt ∧ t.hdr.sourceId = sid ∧ t.hdr.destId = did ∧
        t.hdr.payloadLen = plen) ∧
    (Completes .hdrGet s []
      (valued (s.hdr.nextHeader.toNat * 2 ^ 56 + s.hdr.messageType.toNat * 2 ^ 48 +
        s.hdr.sourceId.toNat * 2 ^ 32 + s.hdr.destId.toNat * 2 ^ 16 + s.hdr.payloadLen.toNat)) []
      fun _ => True)

/-- R122: HDR.SIZE, which does not look at `H.payloadLen`. -/
def Obligations.HdrSize : Prop :=
  ∀ s : State, s.fault = false →
    Encodes .hdrSize { op := 0x1A } ∧
    (Completes .hdrSize s [] (valued (8 + roundUp4 s.osb.length)) [] fun _ => True)

/-- R123: HDR.SERIALIZE. -/
def Obligations.HdrSerialize : Prop :=
  ∀ (s : State) (a : Word), s.fault = false →
    Encodes (.hdrSerialize a) { op := 0x1B, arg := a } ∧
    (s.params.wbSize < a.toNat + (8 + roundUp4 s.osb.length) → Refuses (.hdrSerialize a) s .errBounds) ∧
    (a.toNat + (8 + roundUp4 s.osb.length) ≤ s.params.wbSize →
      Completes (.hdrSerialize a) s [.wire] (valued (8 + roundUp4 s.osb.length)) []
        fun t => Stores s t a.toNat (headerBytes s.hdr ++ emitted s.params s.osb))

/-- R124: HDR.DESERIALIZE. -/
def Obligations.HdrDeserialize : Prop :=
  ∀ (s : State) (a : Word), s.fault = false →
    Encodes (.hdrDeserialize a) { op := 0x1C, arg := a } ∧
    (s.params.wbSize < a.toNat + 8 → Faults (.hdrDeserialize a) s a) ∧
    (a.toNat + 8 ≤ s.params.wbSize →
      (s.params.osbCap < declaredLen s a.toNat → Refuses (.hdrDeserialize a) s .errOverflow) ∧
      (declaredLen s a.toNat ≤ s.params.osbCap →
        (s.params.wbSize < a.toNat + 8 + declaredLen s a.toNat → Faults (.hdrDeserialize a) s a) ∧
        (a.toNat + 8 + declaredLen s a.toNat ≤ s.params.wbSize →
          Completes (.hdrDeserialize a) s [.header, .stream] (valued (8 + declaredLen s a.toNat)) []
            fun t => headerBytes t.hdr = wireBytes s a.toNat 8 ∧
              t.hdr.payloadLen.toNat = declaredLen s a.toNat ∧
              t.osb = wireBytes s (a.toNat + 8) (declaredLen s a.toNat))))

/-- R125: a header serialized and then deserialized, with anything in between that leaves its bytes in WB and
does not halt the block, gives back the H registers and the stream with its trailing filler; HDR.SIZE is the
same as before and serializing again writes the same bytes. -/
def Obligations.HeaderRoundTrip : Prop :=
  ∀ (s : State) (a : Word), s.fault = false → s.hdr.payloadLen.toNat = roundUp4 s.osb.length →
    roundUp4 s.osb.length ≤ s.params.osbCap → a.toNat + (8 + roundUp4 s.osb.length) ≤ s.params.wbSize →
    ∃ t, exec (.hdrSerialize a) s = .next t ∧
      ∀ u : State, u.fault = false → u.params = s.params →
        wireBytes u a.toNat (8 + roundUp4 s.osb.length) = wireBytes t a.toNat (8 + roundUp4 s.osb.length) →
        ∃ v, exec (.hdrDeserialize a) u = .next v ∧ v.resp = valued (8 + roundUp4 s.osb.length) ∧
          v.hdr = s.hdr ∧ v.osb = emitted s.params s.osb ∧ v.osb.length = roundUp4 s.osb.length ∧
          (Completes .hdrSize v [] (valued (8 + roundUp4 s.osb.length)) [] fun _ => True) ∧
          ∀ b : Word, b.toNat + (8 + roundUp4 s.osb.length) ≤ s.params.wbSize →
            Completes (.hdrSerialize b) v [.wire] (valued (8 + roundUp4 s.osb.length)) []
              fun w => Stores v w b.toNat (wireBytes t a.toNat (8 + roundUp4 s.osb.length))

/-! ## Maintenance buffer -/

/-- R132: MB.ENQ: sweep, duplicate test, eviction of the front entry, append. -/
def Obligations.MbEnq : Prop :=
  ∀ (s : State) (seg : Byte) (now : Dword) (pkt our nhop src dst : Word) (ack : Half), s.fault = false →
    Encodes (.mbEnq seg now pkt our nhop src dst ack)
      { op := 0x20, seg := seg, now := now, pkt := pkt, our := our, nhop := nhop, src := src, dst := dst
        ida := ack } ∧
    (¬ LegalNow now → Refuses (.mbEnq seg now pkt our nhop src dst ack) s .errArg) ∧
    (LegalNow now → ∀ c : MaintEntry,
      c = ⟨pkt, our, nhop, src, dst, ack, seg, (now.toNat : Int) + s.mbTimeout.toInt⟩ →
      ((∃ e ∈ mbLiveAt s now, SixEqual e c) →
        Completes (.mbEnq seg now pkt our nhop src dst ack) s [.maint] (flagged false) []
          fun t => t.mb = mbLiveAt s now) ∧
      ((∀ e ∈ mbLiveAt s now, ¬ SixEqual e c) → (mbLiveAt s now).length < s.mbMaxLen.toNat →
        Completes (.mbEnq seg now pkt our nhop src dst ack) s [.maint] (flagged true) []
          fun t => t.mb = mbLiveAt s now ++ [c]) ∧
      ((∀ e ∈ mbLiveAt s now, ¬ SixEqual e c) → s.mbMaxLen.toNat ≤ (mbLiveAt s now).length →
        Completes (.mbEnq seg now pkt our nhop src dst ack) s [.maint] (flagged true) []
          fun t => t.mb = (mbLiveAt s now).drop 1 ++ [c]))

/-- R133: MB.DEQ: sweep, then the first entry for the next-hop is removed and handed over. -/
def Obligations.MbDeq : Prop :=
  ∀ (s : State) (now : Dword) (nhop : Word), s.fault = false →
    Encodes (.mbDeq now nhop) { op := 0x21, now := now, nhop := nhop } ∧
    (¬ LegalNow now → Refuses (.mbDeq now nhop) s .errArg) ∧
    (LegalNow now →
      (∀ e rest, FirstMatch (fun x : MaintEntry => x.nhop = nhop) (mbLiveAt s now) e rest →
        Completes (.mbDeq now nhop) s [.maint] { flag := true, entry := some (.maint e) } []
          fun t => t.mb = rest) ∧
      ((∀ e ∈ mbLiveAt s now, e.nhop ≠ nhop) →
        Completes (.mbDeq now nhop) s [.maint] (flagged false) [] fun t => t.mb = mbLiveAt s now))

/-- R134, R165, R183: the three FIND commands are membership tests on the whole store, expired entries
included: no sweep, nothing removed, nothing returned but the flag. -/
def Obligations.FindIsMembership : Prop :=
  ∀ (s : State) (key : Word), s.fault = false →
    Encodes (.mbFind key) { op := 0x22, nhop := key } ∧
    Encodes (.pbFind key) { op := 0x32, nhop := key } ∧
    Encodes (.nqFind key) { op := 0x42, nhop := key } ∧
    ((∃ e ∈ s.mb, e.nhop = key) → Completes (.mbFind key) s [] (flagged true) [] fun _ => True) ∧
    ((∀ e ∈ s.mb, e.nhop ≠ key) → Completes (.mbFind key) s [] (flagged false) [] fun _ => True) ∧
    ((∃ e ∈ s.pb, lookupField s.params e = key) →
      Completes (.pbFind key) s [] (flagged true) [] fun _ => True) ∧
    ((∀ e ∈ s.pb, lookupField s.params e ≠ key) →
      Completes (.pbFind key) s [] (flagged false) [] fun _ => True) ∧
    ((∃ e ∈ s.nq, e.nhop = key) → Completes (.nqFind key) s [] (flagged true) [] fun _ => True) ∧
    ((∀ e ∈ s.nq, e.nhop ≠ key) → Completes (.nqFind key) s [] (flagged false) [] fun _ => True)

/-- R135: MB.DROPNH: sweep, then every entry for the next-hop is removed and counted. -/
def Obligations.MbDropnh : Prop :=
  ∀ (s : State) (now : Dword) (nhop : Word), s.fault = false →
    Encodes (.mbDropnh now nhop) { op := 0x23, now := now, nhop := nhop } ∧
    (¬ LegalNow now → Refuses (.mbDropnh now nhop) s .errArg) ∧
    (LegalNow now → ∀ n, n = ((mbLiveAt s now).filter fun e => e.nhop == nhop).length →
      Completes (.mbDropnh now nhop) s [.maint] { flag := decide (0 < n), val := BitVec.ofNat 64 n } []
        fun t => t.mb = (mbLiveAt s now).filter fun e => e.nhop != nhop)

/-- R136 to R139, R146: the four predicates remove the first entry that agrees on their keys and say whether
there was one. -/
def Obligations.MbPredicates : Prop :=
  ∀ (s : State) (seg : Byte) (our nhop src dst : Word) (ack : Half), s.fault = false →
    Encodes (.mbAlleq seg our nhop src dst ack)
      { op := 0x24, seg := seg, our := our, nhop := nhop, src := src, dst := dst, ida := ack } ∧
    Encodes (.mbNeteq our nhop src dst ack)
      { op := 0x25, our := our, nhop := nhop, src := src, dst := dst, ida := ack } ∧
    Encodes (.mbPromeq seg src dst ack) { op := 0x26, seg := seg, src := src, dst := dst, ida := ack } ∧
    Encodes (.mbLinkeq our nhop src dst) { op := 0x27, our := our, nhop := nhop, src := src, dst := dst } ∧
    ConsumesFirst (.mbAlleq seg our nhop src dst ack) s
      (fun e => e.our = our ∧ e.nhop = nhop ∧ e.src = src ∧ e.dst = dst ∧ e.ack = ack ∧ e.seg = seg) ∧
    ConsumesFirst (.mbNeteq our nhop src dst ack) s
      (fun e => e.our = our ∧ e.nhop = nhop ∧ e.src = src ∧ e.dst = dst ∧ e.ack = ack) ∧
    ConsumesFirst (.mbPromeq seg src dst ack) s
      (fun e => e.src = src ∧ e.dst = dst ∧ e.seg = seg ∧ e.ack = ack) ∧
    ConsumesFirst (.mbLinkeq our nhop src dst) s
      (fun e => e.src = src ∧ e.dst = dst ∧ e.our = our ∧ e.nhop = nhop)

/-- R130, R140, R141: MB.PURGE and MB.SIZE sweep; the first counts what it removed, the second what is left. -/
def Obligations.MbPurgeSize : Prop :=
  ∀ (s : State) (now : Dword), s.fault = false →
    Encodes (.mbPurge now) { op := 0x28, now := now } ∧ Encodes (.mbSize now) { op := 0x29, now := now } ∧
    (¬ LegalNow now → Refuses (.mbPurge now) s .errArg ∧ Refuses (.mbSize now) s .errArg) ∧
    (LegalNow now →
      (Completes (.mbPurge now) s [.maint] (valued (s.mb.length - (mbLiveAt s now).length)) []
        fun t => t.mb = mbLiveAt s now) ∧
      (Completes (.mbSize now) s [.maint] (valued (mbLiveAt s now).length) [] fun t => t.mb = mbLiveAt s now))

/-- R142, R169, R188: the bound setters write their register only, or refuse. -/
def Obligations.BoundSetters : Prop :=
  ∀ (s : State) (n : Word), s.fault = false →
    Encodes (.mbSetmaxlen n) { op := 0x2A, arg := n } ∧
    Encodes (.pbSetmaxlen n) { op := 0x3A, arg := n } ∧
    Encodes (.nqSetmaxsize n) { op := 0x4A, arg := n } ∧
    (1 ≤ n.toNat ∧ n.toNat ≤ s.params.mbSlots →
      Completes (.mbSetmaxlen n) s [.mbMaxLen] {} [] fun t => t.mbMaxLen = n) ∧
    (n.toNat = 0 ∨ s.params.mbSlots < n.toNat → Refuses (.mbSetmaxlen n) s .errArg) ∧
    (1 ≤ n.toNat ∧ n.toNat ≤ s.params.pbSlots →
      Completes (.pbSetmaxlen n) s [.pbMaxLen] {} [] fun t => t.pbMaxLen = n) ∧
    (n.toNat = 0 ∨ s.params.pbSlots < n.toNat → Refuses (.pbSetmaxlen n) s .errArg) ∧
    (n.toNat ≤ s.params.nqSlots →
      Completes (.nqSetmaxsize n) s [.nqMaxSize] {} [] fun t => t.nqMaxSize = n) ∧
    (s.params.nqSlots < n.toNat → Refuses (.nqSetmaxsize n) s .errArg)

/-- R143, R170, R189: the duration setters write the 64-bit pattern `arg : arg2` to their register only. -/
def Obligations.DurationSetters : Prop :=
  ∀ (s : State) (hi lo : Word), s.fault = false →
    Encodes (.mbSettimeout hi lo) { op := 0x2B, arg := hi, arg2 := lo } ∧
    Encodes (.pbSettimeout hi lo) { op := 0x3B, arg := hi, arg2 := lo } ∧
    Encodes (.nqSetmaxdelay hi lo) { op := 0x4B, arg := hi, arg2 := lo } ∧
    (Completes (.mbSettimeout hi lo) s [.mbTimeout] {} []
      fun t => t.mbTimeout = BitVec.ofNat 64 (hi.toNat * 2 ^ 32 + lo.toNat)) ∧
    (Completes (.pbSettimeout hi lo) s [.pbTimeout] {} []
      fun t => t.pbTimeout = BitVec.ofNat 64 (hi.toNat * 2 ^ 32 + lo.toNat)) ∧
    (Completes (.nqSetmaxdelay hi lo) s [.nqMaxDelay] {} []
      fun t => t.nqMaxDelay = BitVec.ofNat 64 (hi.toNat * 2 ^ 32 + lo.toNat))

/-! ## Passive buffer -/

/-- R163: PB.ENQ: sweep with its events, duplicate test, eviction with its event, append. -/
def Obligations.PbEnq : Prop :=
  ∀ (s : State) (seg : Byte) (now : Dword) (pkt nhop src dst : Word) (pid ident foff : Half),
    s.fault = false →
    Encodes (.pbEnq seg now pkt nhop src dst pid ident foff)
      { op := 0x30, seg := seg, now := now, pkt := pkt, nhop := nhop, src := src, dst := dst, ida := pid
        idb := ident, foff := foff } ∧
    (¬ LegalNow now → Refuses (.pbEnq seg now pkt nhop src dst pid ident foff) s .errArg) ∧
    (LegalNow now → ∀ c : PassiveEntry,
      c = ⟨pkt, pid, src, dst, nhop, ident, foff, seg, (now.toNat : Int) + s.pbTimeout.toInt⟩ →
      ((∃ e ∈ pbLiveAt s now, PassiveDuplicate s.params e c) →
        Completes (.pbEnq seg now pkt nhop src dst pid ident foff) s [.passive] (flagged false)
          (pbDropsAt s now) fun t => t.pb = pbLiveAt s now) ∧
      ((∀ e ∈ pbLiveAt s now, ¬ PassiveDuplicate s.params e c) →
        (pbLiveAt s now).length < s.pbMaxLen.toNat →
        Completes (.pbEnq seg now pkt nhop src dst pid ident foff) s [.passive] (flagged true)
          (pbDropsAt s now) fun t => t.pb = pbLiveAt s now ++ [c]) ∧
      ((∀ e ∈ pbLiveAt s now, ¬ PassiveDuplicate s.params e c) →
        ∀ front rest, pbLiveAt s now = front :: rest → s.pbMaxLen.toNat ≤ rest.length + 1 →
        Completes (.pbEnq seg now pkt nhop src dst pid ident foff) s [.passive] (flagged true)
          (pbDropsAt s now ++ [.drop .capacity front]) fun t => t.pb = rest ++ [c]))

/-- R164: PB.DEQ: sweep with its events, then the first entry whose lookup field is the key is removed and
handed over. The lookup field is the one the OPEN parameter PB_LOOKUP_KEY names (log 1). -/
def Obligations.PbDeq : Prop :=
  ∀ (s : State) (now : Dword) (key : Word), s.fault = false →
    Encodes (.pbDeq now key) { op := 0x31, now := now, nhop := key } ∧
    (¬ LegalNow now → Refuses (.pbDeq now key) s .errArg) ∧
    (LegalNow now →
      (∀ e rest, FirstMatch (fun x => lookupField s.params x = key) (pbLiveAt s now) e rest →
        Completes (.pbDeq now key) s [.passive] { flag := true, entry := some (.passive e) } (pbDropsAt s now)
          fun t => t.pb = rest) ∧
      ((∀ e ∈ pbLiveAt s now, lookupField s.params e ≠ key) →
        Completes (.pbDeq now key) s [.passive] (flagged false) (pbDropsAt s now)
          fun t => t.pb = pbLiveAt s now))

/-- R160, R166: PB.ALLEQ removes the first entry that the candidate is one hop on from; no sweep, no event. -/
def Obligations.PbAlleq : Prop :=
  ∀ (s : State) (seg : Byte) (nhop src dst : Word) (pid ident foff : Half), s.fault = false →
    Encodes (.pbAlleq seg nhop src dst pid ident foff)
      { op := 0x34, seg := seg, nhop := nhop, src := src, dst := dst, ida := pid, idb := ident
        foff := foff } ∧
    ∀ P : PassiveEntry → Prop,
      (∀ e, P e ↔ e.pid = pid ∧ e.src = src ∧ e.dst = dst ∧ e.nhop = nhop ∧ e.ident = ident ∧
        e.foff = foff ∧ e.seg.toNat = seg.toNat + 1) →
      (∀ e rest, FirstMatch P s.pb e rest →
        Completes (.pbAlleq seg nhop src dst pid ident foff) s [.passive] (flagged true) []
          fun t => t.pb = rest) ∧
      ((∀ e ∈ s.pb, ¬ P e) →
        Completes (.pbAlleq seg nhop src dst pid ident foff) s [] (flagged false) [] fun _ => True)

/-- R161, R167, R168: PB.PURGE and PB.SIZE sweep and report each removed entry; the first counts what it
removed, the second what is left. -/
def Obligations.PbPurgeSize : Prop :=
  ∀ (s : State) (now : Dword), s.fault = false →
    Encodes (.pbPurge now) { op := 0x38, now := now } ∧ Encodes (.pbSize now) { op := 0x39, now := now } ∧
    (¬ LegalNow now → Refuses (.pbPurge now) s .errArg ∧ Refuses (.pbSize now) s .errArg) ∧
    (LegalNow now →
      (Completes (.pbPurge now) s [.passive] (valued (s.pb.length - (pbLiveAt s now).length))
        (pbDropsAt s now) fun t => t.pb = pbLiveAt s now) ∧
      (Completes (.pbSize now) s [.passive] (valued (pbLiveAt s now).length) (pbDropsAt s now)
        fun t => t.pb = pbLiveAt s now))

/-- R171: PB.DROPLINK only notifies. -/
def Obligations.PbDroplink : Prop :=
  ∀ (s : State) (pkt nhop src : Word), s.fault = false →
    Encodes (.pbDroplink pkt nhop src) { op := 0x3C, pkt := pkt, nhop := nhop, src := src } ∧
    Completes (.pbDroplink pkt nhop src) s [] {} [.dropLink pkt src nhop] fun _ => True

/-! ## Network queue -/

/-- R181: NQ.ENQ: no cleanup; a full queue rejects the new entry. -/
def Obligations.NqEnq : Prop :=
  ∀ (s : State) (now : Dword) (pkt nhop : Word), s.fault = false →
    Encodes (.nqEnq now pkt nhop) { op := 0x40, now := now, pkt := pkt, nhop := nhop } ∧
    (¬ LegalNow now → Refuses (.nqEnq now pkt nhop) s .errArg) ∧
    (LegalNow now → s.nqMaxSize.toNat ≤ s.nq.length →
      Completes (.nqEnq now pkt nhop) s [] (flagged false) [] fun _ => True) ∧
    (LegalNow now → s.nq.length < s.nqMaxSize.toNat →
      Completes (.nqEnq now pkt nhop) s [.queue] (flagged true) [] fun t => t.nq = s.nq ++ [⟨pkt, nhop, now⟩])

/-- R180, R182: NQ.DEQ: cleanup, then the front entry is removed and handed over. -/
def Obligations.NqDeq : Prop :=
  ∀ (s : State) (now : Dword), s.fault = false →
    Encodes (.nqDeq now) { op := 0x41, now := now } ∧
    (¬ LegalNow now → Refuses (.nqDeq now) s .errArg) ∧
    (LegalNow now →
      (nqLiveAt s now = [] →
        Completes (.nqDeq now) s [.queue] (flagged false) [] fun t => t.nq = []) ∧
      (∀ e rest, nqLiveAt s now = e :: rest →
        Completes (.nqDeq now) s [.queue] { flag := true, entry := some (.queue e) } []
          fun t => t.nq = rest))

/-- R184: NQ.FINDPOP: no cleanup; the first entry for the next-hop is removed and handed over. -/
def Obligations.NqFindpop : Prop :=
  ∀ (s : State) (key : Word), s.fault = false →
    Encodes (.nqFindpop key) { op := 0x43, nhop := key } ∧
    (∀ e rest, FirstMatch (fun x : QueueEntry => x.nhop = key) s.nq e rest →
      Completes (.nqFindpop key) s [.queue] { flag := true, entry := some (.queue e) } []
        fun t => t.nq = rest) ∧
    ((∀ e ∈ s.nq, e.nhop ≠ key) → Completes (.nqFindpop key) s [] (flagged false) [] fun _ => True)

/-- R185: NQ.FLUSH. -/
def Obligations.NqFlush : Prop :=
  ∀ s : State, s.fault = false →
    Encodes .nqFlush { op := 0x44 } ∧
    Completes .nqFlush s [.queue] (valued s.nq.length) [] fun t => t.nq = []

/-- R180, R186, R187: NQ.CLEANUP and NQ.SIZE clean up under the current NQ_MAXDELAY. -/
def Obligations.NqCleanupSize : Prop :=
  ∀ (s : State) (now : Dword), s.fault = false →
    Encodes (.nqCleanup now) { op := 0x48, now := now } ∧ Encodes (.nqSize now) { op := 0x49, now := now } ∧
    (¬ LegalNow now → Refuses (.nqCleanup now) s .errArg ∧ Refuses (.nqSize now) s .errArg) ∧
    (LegalNow now →
      (Completes (.nqCleanup now) s [.queue] (valued (s.nq.length - (nqLiveAt s now).length)) []
        fun t => t.nq = nqLiveAt s now) ∧
      (Completes (.nqSize now) s [.queue] (valued (nqLiveAt s now).length) [] fun t => t.nq = nqLiveAt s now))

/-! ## Over all commands -/

/-- Which command may write which piece of state (R10, R11, R13, R15, R18, R20, R24 to R27): everything else is
as it was. -/
def Obligations.PartsWrittenOnlyBy : Prop :=
  ∀ (i : Instr) (s t : State), exec i s = .next t → Frame (mayWrite i) s t

/-- R212: where events come from: an EXPIRED drop reports an entry of PB whose deadline is past at the `now` of
a sweeping command, a CAPACITY drop an entry of PB under PB.ENQ, a link drop the operands of PB.DROPLINK; and
a command whose status is not OK emits none. -/
def Obligations.EventSources : Prop :=
  ∀ (i : Instr) (s t : State), exec i s = .next t →
    (t.resp.status ≠ .ok → t.events = []) ∧
    (∀ e, Event.drop .expired e ∈ t.events →
      e ∈ s.pb ∧ ∃ now, SweepsPassive now i ∧ e.deadline < (now.toNat : Int)) ∧
    (∀ e, Event.drop .capacity e ∈ t.events →
      e ∈ s.pb ∧ ∃ seg now pkt nhop src dst pid ident foff,
        i = .pbEnq seg now pkt nhop src dst pid ident foff) ∧
    (∀ pkt src nhop, Event.dropLink pkt src nhop ∈ t.events → i = .pbDroplink pkt nhop src)

/-- R69: `entry` is present exactly when one of the four dequeue-type commands ends with OK and flag 1, and it
is an entry that its own store held, every field as stored. -/
def Obligations.EntryPresentExactly : Prop :=
  ∀ (i : Instr) (s t : State), exec i s = .next t →
    (t.resp.entry.isSome = true ↔ t.resp.status = .ok ∧ t.resp.flag = true ∧
      ((∃ now key, i = .mbDeq now key) ∨ (∃ now key, i = .pbDeq now key) ∨ (∃ now, i = .nqDeq now) ∨
        ∃ key, i = .nqFindpop key)) ∧
    (∀ e, t.resp.entry = some (.maint e) → e ∈ s.mb ∧ ∃ now key, i = .mbDeq now key) ∧
    (∀ e, t.resp.entry = some (.passive e) → e ∈ s.pb ∧ ∃ now key, i = .pbDeq now key) ∧
    (∀ e, t.resp.entry = some (.queue e) → e ∈ s.nq ∧ ((∃ now, i = .nqDeq now) ∨ ∃ key, i = .nqFindpop key))

/-- R144, R15, R18, R20: no command moves or changes a stored entry or puts a removed one back: what is left of
each store keeps its order, and only an enqueue adds, one entry, at the back. -/
def Obligations.StoresKeepOrder : Prop :=
  ∀ (i : Instr) (s t : State), exec i s = .next t →
    KeepsOrder (∃ seg now pkt our nhop src dst ack, i = .mbEnq seg now pkt our nhop src dst ack) s.mb t.mb ∧
    KeepsOrder (∃ seg now pkt nhop src dst pid ident foff, i = .pbEnq seg now pkt nhop src dst pid ident foff)
      s.pb t.pb ∧
    KeepsOrder (∃ now pkt nhop, i = .nqEnq now pkt nhop) s.nq t.nq

/-- R145, capacity eviction: with MB_MAXLEN = k, enqueueing distinct entries into an empty buffer leaves exactly
the k most recently inserted, in order, if no entry is expired at the clock of any candidate of the list, its
own and earlier ones included. -/
def Obligations.MbCapacityEviction : Prop :=
  ∀ (s : State) (cs : List MbCandidate), s.fault = false → s.mb = [] → 1 ≤ s.mbMaxLen.toNat →
    (∀ c ∈ cs, LegalNow c.now) →
    (cs.map (MbCandidate.stored s.mbTimeout)).Pairwise (fun e c => ¬ SixEqual e c) →
    (∀ c ∈ cs, ∀ c' ∈ cs, (c'.now.toNat : Int) ≤ (c.now.toNat : Int) + s.mbTimeout.toInt) →
    ∃ t, runAll s (cs.map MbCandidate.command) = some t ∧
      t.mb = (cs.drop (cs.length - s.mbMaxLen.toNat)).map (MbCandidate.stored s.mbTimeout)

/-- R172: every passive entry is accounted for: what PB held and what PB.ENQ added is what PB holds now, what
the response hands over, what the events report as dropped, and what PB.ALLEQ (one entry) or a reset removed
without report. -/
def Obligations.PassiveAccounted : Prop :=
  ∀ (i : Instr) (s t : State), exec i s = .next t →
    ∃ added gone : List PassiveEntry,
      (s.pb ++ added).Perm (t.pb ++ handedOver t.resp ++ droppedEntries t.events ++ gone) ∧
      (added ≠ [] → added.length = 1 ∧ t.resp.flag = true ∧
        ∃ seg now pkt nhop src dst pid ident foff, i = .pbEnq seg now pkt nhop src dst pid ident foff) ∧
      (gone ≠ [] → i = .sysReset ∨ gone.length = 1 ∧ t.resp.flag = true ∧
        ∃ seg nhop src dst pid ident foff, i = .pbAlleq seg nhop src dst pid ident foff)

/-- R145, R173, R191: a buffer that is within its bound stays within it, unless the command lowers the bound
below the buffer's length. -/
def Obligations.LengthWithinBound : Prop :=
  ∀ (i : Instr) (s t : State), Inv s → exec i s = .next t →
    (s.mb.length ≤ s.mbMaxLen.toNat → (∀ n, i = .mbSetmaxlen n → s.mb.length ≤ n.toNat) →
      t.mb.length ≤ t.mbMaxLen.toNat) ∧
    (s.pb.length ≤ s.pbMaxLen.toNat → (∀ n, i = .pbSetmaxlen n → s.pb.length ≤ n.toNat) →
      t.pb.length ≤ t.pbMaxLen.toNat) ∧
    (s.nq.length ≤ s.nqMaxSize.toNat → (∀ n, i = .nqSetmaxsize n → s.nq.length ≤ n.toNat) →
      t.nq.length ≤ t.nqMaxSize.toNat)

/-- R3: there is one function of the instance's parameters, the block's state and the descriptor that gives the
block's next state, the response and the events of every step, so none of them depends on an earlier response,
an earlier event list or a later descriptor, and nothing else is carried over (R29). An outcome that is not OK
leaves the block as it was, but for the three status registers under the fault. -/
def Obligations.StepIsFunctionOfBlock : Prop :=
  ∃ f : Params → Block → Desc → Block × Response × List Event,
    (∀ (s : State) (d : Desc) (rest : List Desc), s.input = d :: rest →
      ∀ b r evs, f s.params s.toBlock d = (b, r, evs) →
        step s = .next { toBlock := b, input := rest, resp := r, events := evs, params := s.params }) ∧
    (∀ p b d b' r evs, f p b d = (b', r, evs) → r.status ≠ .ok →
      if r.status = .faultWireBounds
      then b' = { b with fault := b'.fault, fcause := b'.fcause, finfo := b'.finfo } else b' = b)
end

