-- ==== Sys2Proof/Laws/State.lean ====
section
/-!
SUPPORT. One lemma per field per update of the state, each true by definition, so that no later proof
unfolds an update.
-/

namespace Sys2Proof.Machine

/-! ## `reply` -/

@[simp] theorem State.reply_toBlock (s : State) (r : Response) (evs : List Event) :
    (s.reply r evs).toBlock = s.toBlock := rfl
@[simp] theorem State.reply_hdr (s : State) (r : Response) (evs : List Event) : (s.reply r evs).hdr =
    s.hdr := rfl
@[simp] theorem State.reply_osb (s : State) (r : Response) (evs : List Event) : (s.reply r evs).osb =
    s.osb := rfl
@[simp] theorem State.reply_wb (s : State) (r : Response) (evs : List Event) : (s.reply r evs).wb =
    s.wb := rfl
@[simp] theorem State.reply_mb (s : State) (r : Response) (evs : List Event) : (s.reply r evs).mb =
    s.mb := rfl
@[simp] theorem State.reply_pb (s : State) (r : Response) (evs : List Event) : (s.reply r evs).pb =
    s.pb := rfl
@[simp] theorem State.reply_nq (s : State) (r : Response) (evs : List Event) : (s.reply r evs).nq =
    s.nq := rfl
@[simp] theorem State.reply_mbMaxLen (s : State) (r : Response) (evs : List Event) : (s.reply r evs).mbMaxLen =
    s.mbMaxLen := rfl
@[simp] theorem State.reply_mbTimeout (s : State) (r : Response) (evs : List Event) : (s.reply r evs).mbTimeout =
    s.mbTimeout := rfl
@[simp] theorem State.reply_pbMaxLen (s : State) (r : Response) (evs : List Event) : (s.reply r evs).pbMaxLen =
    s.pbMaxLen := rfl
@[simp] theorem State.reply_pbTimeout (s : State) (r : Response) (evs : List Event) : (s.reply r evs).pbTimeout =
    s.pbTimeout := rfl
@[simp] theorem State.reply_nqMaxSize (s : State) (r : Response) (evs : List Event) : (s.reply r evs).nqMaxSize =
    s.nqMaxSize := rfl
@[simp] theorem State.reply_nqMaxDelay (s : State) (r : Response) (evs : List Event) : (s.reply r evs).nqMaxDelay =
    s.nqMaxDelay := rfl
@[simp] theorem State.reply_fault (s : State) (r : Response) (evs : List Event) : (s.reply r evs).fault =
    s.fault := rfl
@[simp] theorem State.reply_fcause (s : State) (r : Response) (evs : List Event) : (s.reply r evs).fcause =
    s.fcause := rfl
@[simp] theorem State.reply_finfo (s : State) (r : Response) (evs : List Event) : (s.reply r evs).finfo =
    s.finfo := rfl
@[simp] theorem State.reply_params (s : State) (r : Response) (evs : List Event) : (s.reply r evs).params =
    s.params := rfl
@[simp] theorem State.reply_input (s : State) (r : Response) (evs : List Event) : (s.reply r evs).input =
    s.input := rfl
@[simp] theorem State.reply_resp (s : State) (r : Response) (evs : List Event) : (s.reply r evs).resp =
    r := rfl
@[simp] theorem State.reply_events (s : State) (r : Response) (evs : List Event) : (s.reply r evs).events =
    evs := rfl

/-! ## `memWrite` -/

@[simp] theorem State.memWrite_hdr (s : State) (a : Nat) (bs : List Byte) : (s.memWrite a bs).hdr =
    s.hdr := rfl
@[simp] theorem State.memWrite_osb (s : State) (a : Nat) (bs : List Byte) : (s.memWrite a bs).osb =
    s.osb := rfl
@[simp] theorem State.memWrite_wb (s : State) (a : Nat) (bs : List Byte) : (s.memWrite a bs).wb =
    s.wb.putAll a bs := rfl
@[simp] theorem State.memWrite_mb (s : State) (a : Nat) (bs : List Byte) : (s.memWrite a bs).mb =
    s.mb := rfl
@[simp] theorem State.memWrite_pb (s : State) (a : Nat) (bs : List Byte) : (s.memWrite a bs).pb =
    s.pb := rfl
@[simp] theorem State.memWrite_nq (s : State) (a : Nat) (bs : List Byte) : (s.memWrite a bs).nq =
    s.nq := rfl
@[simp] theorem State.memWrite_mbMaxLen (s : State) (a : Nat) (bs : List Byte) : (s.memWrite a bs).mbMaxLen =
    s.mbMaxLen := rfl
@[simp] theorem State.memWrite_mbTimeout (s : State) (a : Nat) (bs : List Byte) : (s.memWrite a bs).mbTimeout =
    s.mbTimeout := rfl
@[simp] theorem State.memWrite_pbMaxLen (s : State) (a : Nat) (bs : List Byte) : (s.memWrite a bs).pbMaxLen =
    s.pbMaxLen := rfl
@[simp] theorem State.memWrite_pbTimeout (s : State) (a : Nat) (bs : List Byte) : (s.memWrite a bs).pbTimeout =
    s.pbTimeout := rfl
@[simp] theorem State.memWrite_nqMaxSize (s : State) (a : Nat) (bs : List Byte) : (s.memWrite a bs).nqMaxSize =
    s.nqMaxSize := rfl
@[simp] theorem State.memWrite_nqMaxDelay (s : State) (a : Nat) (bs : List Byte) : (s.memWrite a bs).nqMaxDelay =
    s.nqMaxDelay := rfl
@[simp] theorem State.memWrite_fault (s : State) (a : Nat) (bs : List Byte) : (s.memWrite a bs).fault =
    s.fault := rfl
@[simp] theorem State.memWrite_fcause (s : State) (a : Nat) (bs : List Byte) : (s.memWrite a bs).fcause =
    s.fcause := rfl
@[simp] theorem State.memWrite_finfo (s : State) (a : Nat) (bs : List Byte) : (s.memWrite a bs).finfo =
    s.finfo := rfl
@[simp] theorem State.memWrite_params (s : State) (a : Nat) (bs : List Byte) : (s.memWrite a bs).params =
    s.params := rfl
@[simp] theorem State.memWrite_input (s : State) (a : Nat) (bs : List Byte) : (s.memWrite a bs).input =
    s.input := rfl
@[simp] theorem State.memWrite_resp (s : State) (a : Nat) (bs : List Byte) : (s.memWrite a bs).resp =
    s.resp := rfl
@[simp] theorem State.memWrite_events (s : State) (a : Nat) (bs : List Byte) : (s.memWrite a bs).events =
    s.events := rfl

/-! ## `mbPurge` -/

@[simp] theorem State.mbPurge_hdr (s : State) (now : Dword) : (s.mbPurge now).hdr = s.hdr := rfl
@[simp] theorem State.mbPurge_osb (s : State) (now : Dword) : (s.mbPurge now).osb = s.osb := rfl
@[simp] theorem State.mbPurge_wb (s : State) (now : Dword) : (s.mbPurge now).wb = s.wb := rfl
@[simp] theorem State.mbPurge_mb (s : State) (now : Dword) : (s.mbPurge now).mb = s.mbLive now := rfl
@[simp] theorem State.mbPurge_pb (s : State) (now : Dword) : (s.mbPurge now).pb = s.pb := rfl
@[simp] theorem State.mbPurge_nq (s : State) (now : Dword) : (s.mbPurge now).nq = s.nq := rfl
@[simp] theorem State.mbPurge_mbMaxLen (s : State) (now : Dword) : (s.mbPurge now).mbMaxLen =
    s.mbMaxLen := rfl
@[simp] theorem State.mbPurge_mbTimeout (s : State) (now : Dword) : (s.mbPurge now).mbTimeout =
    s.mbTimeout := rfl
@[simp] theorem State.mbPurge_pbMaxLen (s : State) (now : Dword) : (s.mbPurge now).pbMaxLen =
    s.pbMaxLen := rfl
@[simp] theorem State.mbPurge_pbTimeout (s : State) (now : Dword) : (s.mbPurge now).pbTimeout =
    s.pbTimeout := rfl
@[simp] theorem State.mbPurge_nqMaxSize (s : State) (now : Dword) : (s.mbPurge now).nqMaxSize =
    s.nqMaxSize := rfl
@[simp] theorem State.mbPurge_nqMaxDelay (s : State) (now : Dword) : (s.mbPurge now).nqMaxDelay =
    s.nqMaxDelay := rfl
@[simp] theorem State.mbPurge_fault (s : State) (now : Dword) : (s.mbPurge now).fault = s.fault := rfl
@[simp] theorem State.mbPurge_fcause (s : State) (now : Dword) : (s.mbPurge now).fcause = s.fcause := rfl
@[simp] theorem State.mbPurge_finfo (s : State) (now : Dword) : (s.mbPurge now).finfo = s.finfo := rfl
@[simp] theorem State.mbPurge_params (s : State) (now : Dword) : (s.mbPurge now).params = s.params := rfl
@[simp] theorem State.mbPurge_input (s : State) (now : Dword) : (s.mbPurge now).input = s.input := rfl
@[simp] theorem State.mbPurge_resp (s : State) (now : Dword) : (s.mbPurge now).resp = s.resp := rfl
@[simp] theorem State.mbPurge_events (s : State) (now : Dword) : (s.mbPurge now).events = s.events := rfl

/-! ## `pbPurge` -/

@[simp] theorem State.pbPurge_hdr (s : State) (now : Dword) : (s.pbPurge now).hdr = s.hdr := rfl
@[simp] theorem State.pbPurge_osb (s : State) (now : Dword) : (s.pbPurge now).osb = s.osb := rfl
@[simp] theorem State.pbPurge_wb (s : State) (now : Dword) : (s.pbPurge now).wb = s.wb := rfl
@[simp] theorem State.pbPurge_mb (s : State) (now : Dword) : (s.pbPurge now).mb = s.mb := rfl
@[simp] theorem State.pbPurge_pb (s : State) (now : Dword) : (s.pbPurge now).pb = s.pbLive now := rfl
@[simp] theorem State.pbPurge_nq (s : State) (now : Dword) : (s.pbPurge now).nq = s.nq := rfl
@[simp] theorem State.pbPurge_mbMaxLen (s : State) (now : Dword) : (s.pbPurge now).mbMaxLen =
    s.mbMaxLen := rfl
@[simp] theorem State.pbPurge_mbTimeout (s : State) (now : Dword) : (s.pbPurge now).mbTimeout =
    s.mbTimeout := rfl
@[simp] theorem State.pbPurge_pbMaxLen (s : State) (now : Dword) : (s.pbPurge now).pbMaxLen =
    s.pbMaxLen := rfl
@[simp] theorem State.pbPurge_pbTimeout (s : State) (now : Dword) : (s.pbPurge now).pbTimeout =
    s.pbTimeout := rfl
@[simp] theorem State.pbPurge_nqMaxSize (s : State) (now : Dword) : (s.pbPurge now).nqMaxSize =
    s.nqMaxSize := rfl
@[simp] theorem State.pbPurge_nqMaxDelay (s : State) (now : Dword) : (s.pbPurge now).nqMaxDelay =
    s.nqMaxDelay := rfl
@[simp] theorem State.pbPurge_fault (s : State) (now : Dword) : (s.pbPurge now).fault = s.fault := rfl
@[simp] theorem State.pbPurge_fcause (s : State) (now : Dword) : (s.pbPurge now).fcause = s.fcause := rfl
@[simp] theorem State.pbPurge_finfo (s : State) (now : Dword) : (s.pbPurge now).finfo = s.finfo := rfl
@[simp] theorem State.pbPurge_params (s : State) (now : Dword) : (s.pbPurge now).params = s.params := rfl
@[simp] theorem State.pbPurge_input (s : State) (now : Dword) : (s.pbPurge now).input = s.input := rfl
@[simp] theorem State.pbPurge_resp (s : State) (now : Dword) : (s.pbPurge now).resp = s.resp := rfl
@[simp] theorem State.pbPurge_events (s : State) (now : Dword) : (s.pbPurge now).events = s.events := rfl

/-! ## `nqCleanup` -/

@[simp] theorem State.nqCleanup_hdr (s : State) (now : Dword) : (s.nqCleanup now).hdr = s.hdr := rfl
@[simp] theorem State.nqCleanup_osb (s : State) (now : Dword) : (s.nqCleanup now).osb = s.osb := rfl
@[simp] theorem State.nqCleanup_wb (s : State) (now : Dword) : (s.nqCleanup now).wb = s.wb := rfl
@[simp] theorem State.nqCleanup_mb (s : State) (now : Dword) : (s.nqCleanup now).mb = s.mb := rfl
@[simp] theorem State.nqCleanup_pb (s : State) (now : Dword) : (s.nqCleanup now).pb = s.pb := rfl
@[simp] theorem State.nqCleanup_nq (s : State) (now : Dword) : (s.nqCleanup now).nq = s.nqLive now := rfl
@[simp] theorem State.nqCleanup_mbMaxLen (s : State) (now : Dword) : (s.nqCleanup now).mbMaxLen =
    s.mbMaxLen := rfl
@[simp] theorem State.nqCleanup_mbTimeout (s : State) (now : Dword) : (s.nqCleanup now).mbTimeout =
    s.mbTimeout := rfl
@[simp] theorem State.nqCleanup_pbMaxLen (s : State) (now : Dword) : (s.nqCleanup now).pbMaxLen =
    s.pbMaxLen := rfl
@[simp] theorem State.nqCleanup_pbTimeout (s : State) (now : Dword) : (s.nqCleanup now).pbTimeout =
    s.pbTimeout := rfl
@[simp] theorem State.nqCleanup_nqMaxSize (s : State) (now : Dword) : (s.nqCleanup now).nqMaxSize =
    s.nqMaxSize := rfl
@[simp] theorem State.nqCleanup_nqMaxDelay (s : State) (now : Dword) : (s.nqCleanup now).nqMaxDelay =
    s.nqMaxDelay := rfl
@[simp] theorem State.nqCleanup_fault (s : State) (now : Dword) : (s.nqCleanup now).fault =
    s.fault := rfl
@[simp] theorem State.nqCleanup_fcause (s : State) (now : Dword) : (s.nqCleanup now).fcause =
    s.fcause := rfl
@[simp] theorem State.nqCleanup_finfo (s : State) (now : Dword) : (s.nqCleanup now).finfo =
    s.finfo := rfl
@[simp] theorem State.nqCleanup_params (s : State) (now : Dword) : (s.nqCleanup now).params =
    s.params := rfl
@[simp] theorem State.nqCleanup_input (s : State) (now : Dword) : (s.nqCleanup now).input =
    s.input := rfl
@[simp] theorem State.nqCleanup_resp (s : State) (now : Dword) : (s.nqCleanup now).resp = s.resp := rfl
@[simp] theorem State.nqCleanup_events (s : State) (now : Dword) : (s.nqCleanup now).events =
    s.events := rfl

/-! ## `present` -/

@[simp] theorem State.present_hdr (s : State) (d : Desc) : (s.present d).hdr = s.hdr := rfl
@[simp] theorem State.present_osb (s : State) (d : Desc) : (s.present d).osb = s.osb := rfl
@[simp] theorem State.present_wb (s : State) (d : Desc) : (s.present d).wb = s.wb := rfl
@[simp] theorem State.present_mb (s : State) (d : Desc) : (s.present d).mb = s.mb := rfl
@[simp] theorem State.present_pb (s : State) (d : Desc) : (s.present d).pb = s.pb := rfl
@[simp] theorem State.present_nq (s : State) (d : Desc) : (s.present d).nq = s.nq := rfl
@[simp] theorem State.present_mbMaxLen (s : State) (d : Desc) : (s.present d).mbMaxLen =
    s.mbMaxLen := rfl
@[simp] theorem State.present_mbTimeout (s : State) (d : Desc) : (s.present d).mbTimeout =
    s.mbTimeout := rfl
@[simp] theorem State.present_pbMaxLen (s : State) (d : Desc) : (s.present d).pbMaxLen =
    s.pbMaxLen := rfl
@[simp] theorem State.present_pbTimeout (s : State) (d : Desc) : (s.present d).pbTimeout =
    s.pbTimeout := rfl
@[simp] theorem State.present_nqMaxSize (s : State) (d : Desc) : (s.present d).nqMaxSize =
    s.nqMaxSize := rfl
@[simp] theorem State.present_nqMaxDelay (s : State) (d : Desc) : (s.present d).nqMaxDelay =
    s.nqMaxDelay := rfl
@[simp] theorem State.present_fault (s : State) (d : Desc) : (s.present d).fault = s.fault := rfl
@[simp] theorem State.present_fcause (s : State) (d : Desc) : (s.present d).fcause = s.fcause := rfl
@[simp] theorem State.present_finfo (s : State) (d : Desc) : (s.present d).finfo = s.finfo := rfl
@[simp] theorem State.present_params (s : State) (d : Desc) : (s.present d).params = s.params := rfl
@[simp] theorem State.present_input (s : State) (d : Desc) : (s.present d).input = d :: s.input := rfl
@[simp] theorem State.present_resp (s : State) (d : Desc) : (s.present d).resp = s.resp := rfl
@[simp] theorem State.present_events (s : State) (d : Desc) : (s.present d).events = s.events := rfl

/-! ## `raiseWireBounds` -/

@[simp] theorem State.raiseWireBounds_hdr (s : State) (info : Word) : (s.raiseWireBounds info).hdr =
    s.hdr := rfl
@[simp] theorem State.raiseWireBounds_osb (s : State) (info : Word) : (s.raiseWireBounds info).osb =
    s.osb := rfl
@[simp] theorem State.raiseWireBounds_wb (s : State) (info : Word) : (s.raiseWireBounds info).wb =
    s.wb := rfl
@[simp] theorem State.raiseWireBounds_mb (s : State) (info : Word) : (s.raiseWireBounds info).mb =
    s.mb := rfl
@[simp] theorem State.raiseWireBounds_pb (s : State) (info : Word) : (s.raiseWireBounds info).pb =
    s.pb := rfl
@[simp] theorem State.raiseWireBounds_nq (s : State) (info : Word) : (s.raiseWireBounds info).nq =
    s.nq := rfl
@[simp] theorem State.raiseWireBounds_mbMaxLen (s : State) (info : Word) : (s.raiseWireBounds info).mbMaxLen =
    s.mbMaxLen := rfl
@[simp] theorem State.raiseWireBounds_mbTimeout (s : State) (info : Word) : (s.raiseWireBounds info).mbTimeout =
    s.mbTimeout := rfl
@[simp] theorem State.raiseWireBounds_pbMaxLen (s : State) (info : Word) : (s.raiseWireBounds info).pbMaxLen =
    s.pbMaxLen := rfl
@[simp] theorem State.raiseWireBounds_pbTimeout (s : State) (info : Word) : (s.raiseWireBounds info).pbTimeout =
    s.pbTimeout := rfl
@[simp] theorem State.raiseWireBounds_nqMaxSize (s : State) (info : Word) : (s.raiseWireBounds info).nqMaxSize =
    s.nqMaxSize := rfl
@[simp] theorem State.raiseWireBounds_nqMaxDelay (s : State) (info : Word) : (s.raiseWireBounds info).nqMaxDelay =
    s.nqMaxDelay := rfl
@[simp] theorem State.raiseWireBounds_fault (s : State) (info : Word) : (s.raiseWireBounds info).fault =
    true := rfl
@[simp] theorem State.raiseWireBounds_fcause (s : State) (info : Word) : (s.raiseWireBounds info).fcause =
    0x80 := rfl
@[simp] theorem State.raiseWireBounds_finfo (s : State) (info : Word) : (s.raiseWireBounds info).finfo =
    info := rfl
@[simp] theorem State.raiseWireBounds_params (s : State) (info : Word) : (s.raiseWireBounds info).params =
    s.params := rfl
@[simp] theorem State.raiseWireBounds_input (s : State) (info : Word) : (s.raiseWireBounds info).input =
    s.input := rfl
@[simp] theorem State.raiseWireBounds_resp (s : State) (info : Word) : (s.raiseWireBounds info).resp =
    { status := .faultWireBounds } := rfl
@[simp] theorem State.raiseWireBounds_events (s : State) (info : Word) : (s.raiseWireBounds info).events =
    [] := rfl

/-! ## `resetExceptWire` -/

@[simp] theorem State.resetExceptWire_hdr (s : State) : (s.resetExceptWire).hdr = {} := rfl
@[simp] theorem State.resetExceptWire_osb (s : State) : (s.resetExceptWire).osb = [] := rfl
@[simp] theorem State.resetExceptWire_wb (s : State) : (s.resetExceptWire).wb = s.wb := rfl
@[simp] theorem State.resetExceptWire_mb (s : State) : (s.resetExceptWire).mb = [] := rfl
@[simp] theorem State.resetExceptWire_pb (s : State) : (s.resetExceptWire).pb = [] := rfl
@[simp] theorem State.resetExceptWire_nq (s : State) : (s.resetExceptWire).nq = [] := rfl
@[simp] theorem State.resetExceptWire_mbMaxLen (s : State) : (s.resetExceptWire).mbMaxLen =
    BitVec.ofNat 32 s.params.mbSlots := rfl
@[simp] theorem State.resetExceptWire_mbTimeout (s : State) : (s.resetExceptWire).mbTimeout = 0 := rfl
@[simp] theorem State.resetExceptWire_pbMaxLen (s : State) : (s.resetExceptWire).pbMaxLen =
    BitVec.ofNat 32 s.params.pbSlots := rfl
@[simp] theorem State.resetExceptWire_pbTimeout (s : State) : (s.resetExceptWire).pbTimeout = 0 := rfl
@[simp] theorem State.resetExceptWire_nqMaxSize (s : State) : (s.resetExceptWire).nqMaxSize =
    BitVec.ofNat 32 s.params.nqSlots := rfl
@[simp] theorem State.resetExceptWire_nqMaxDelay (s : State) : (s.resetExceptWire).nqMaxDelay = 0 := rfl
@[simp] theorem State.resetExceptWire_fault (s : State) : (s.resetExceptWire).fault = false := rfl
@[simp] theorem State.resetExceptWire_fcause (s : State) : (s.resetExceptWire).fcause = 0 := rfl
@[simp] theorem State.resetExceptWire_finfo (s : State) : (s.resetExceptWire).finfo = 0 := rfl
@[simp] theorem State.resetExceptWire_params (s : State) : (s.resetExceptWire).params = s.params := rfl
@[simp] theorem State.resetExceptWire_input (s : State) : (s.resetExceptWire).input = s.input := rfl
@[simp] theorem State.resetExceptWire_resp (s : State) : (s.resetExceptWire).resp = s.resp := rfl
@[simp] theorem State.resetExceptWire_events (s : State) : (s.resetExceptWire).events = s.events := rfl

/-! ## `powerOn` -/

@[simp] theorem Block.powerOn_hdr (p : Params) : (Block.powerOn p).hdr = {} := rfl
@[simp] theorem Block.powerOn_osb (p : Params) : (Block.powerOn p).osb = [] := rfl
@[simp] theorem Block.powerOn_wb (p : Params) : (Block.powerOn p).wb = [] := rfl
@[simp] theorem Block.powerOn_mb (p : Params) : (Block.powerOn p).mb = [] := rfl
@[simp] theorem Block.powerOn_pb (p : Params) : (Block.powerOn p).pb = [] := rfl
@[simp] theorem Block.powerOn_nq (p : Params) : (Block.powerOn p).nq = [] := rfl
@[simp] theorem Block.powerOn_mbMaxLen (p : Params) : (Block.powerOn p).mbMaxLen = BitVec.ofNat 32 p.mbSlots := rfl
@[simp] theorem Block.powerOn_mbTimeout (p : Params) : (Block.powerOn p).mbTimeout = 0 := rfl
@[simp] theorem Block.powerOn_pbMaxLen (p : Params) : (Block.powerOn p).pbMaxLen = BitVec.ofNat 32 p.pbSlots := rfl
@[simp] theorem Block.powerOn_pbTimeout (p : Params) : (Block.powerOn p).pbTimeout = 0 := rfl
@[simp] theorem Block.powerOn_nqMaxSize (p : Params) : (Block.powerOn p).nqMaxSize = BitVec.ofNat 32 p.nqSlots := rfl
@[simp] theorem Block.powerOn_nqMaxDelay (p : Params) : (Block.powerOn p).nqMaxDelay = 0 := rfl
@[simp] theorem Block.powerOn_fault (p : Params) : (Block.powerOn p).fault = false := rfl
@[simp] theorem Block.powerOn_fcause (p : Params) : (Block.powerOn p).fcause = 0 := rfl
@[simp] theorem Block.powerOn_finfo (p : Params) : (Block.powerOn p).finfo = 0 := rfl
@[simp] theorem State.powerOn_toBlock (p : Params) : (State.powerOn p).toBlock = Block.powerOn p := rfl
@[simp] theorem State.powerOn_input (p : Params) : (State.powerOn p).input = [] := rfl
@[simp] theorem State.powerOn_resp (p : Params) : (State.powerOn p).resp = {} := rfl
@[simp] theorem State.powerOn_events (p : Params) : (State.powerOn p).events = [] := rfl
@[simp] theorem State.powerOn_params (p : Params) : (State.powerOn p).params = p := rfl

/-! ## What the accessors see of an update -/

@[simp] theorem State.reply_readByte (s : State) (r : Response) (evs : List Event) (a : Nat) :
    (s.reply r evs).readByte a = s.readByte a := rfl

@[simp] theorem State.present_readByte (s : State) (d : Desc) (a : Nat) :
    (s.present d).readByte a = s.readByte a := rfl

@[simp] theorem State.raiseWireBounds_readByte (s : State) (info : Word) (a : Nat) :
    (s.raiseWireBounds info).readByte a = s.readByte a := rfl

@[simp] theorem State.resetExceptWire_readByte (s : State) (a : Nat) :
    s.resetExceptWire.readByte a = s.readByte a := rfl

@[simp] theorem State.mbPurge_readByte (s : State) (now : Dword) (a : Nat) :
    (s.mbPurge now).readByte a = s.readByte a := rfl

@[simp] theorem State.pbPurge_readByte (s : State) (now : Dword) (a : Nat) :
    (s.pbPurge now).readByte a = s.readByte a := rfl

@[simp] theorem State.nqCleanup_readByte (s : State) (now : Dword) (a : Nat) :
    (s.nqCleanup now).readByte a = s.readByte a := rfl

/-- A refusal is a bare response (60_exceptions.md R204). -/
theorem State.raise_eq_reply (s : State) {st : Status} (h : st.isFault = false) :
    s.raise st = s.reply { status := st } [] := by
  simp [State.raise, State.takeException, h]

@[simp] theorem State.raise_errIllegal (s : State) :
    s.raise .errIllegal = s.reply { status := .errIllegal } [] := rfl
@[simp] theorem State.raise_errHalted (s : State) :
    s.raise .errHalted = s.reply { status := .errHalted } [] := rfl
@[simp] theorem State.raise_errArg (s : State) : s.raise .errArg = s.reply { status := .errArg } [] := rfl
@[simp] theorem State.raise_errBounds (s : State) :
    s.raise .errBounds = s.reply { status := .errBounds } [] := rfl
@[simp] theorem State.raise_errOverflow (s : State) :
    s.raise .errOverflow = s.reply { status := .errOverflow } [] := rfl
@[simp] theorem State.raise_errTrunc (s : State) :
    s.raise .errTrunc = s.reply { status := .errTrunc } [] := rfl

end Sys2Proof.Machine
end

