-- ==== Sys2Proof/Laws/Memory.lean ====
section
/-!
SUPPORT. The wire buffer: a read after a write gives what was written there and leaves every other address
alone, every write keeps the canonical form, and the reset memory has it.
-/

namespace Sys2Proof.Machine

/-! ## One byte -/

theorem Memory.byteAt_put (m : Memory) (k : Nat) (v : Byte) (a : Nat) :
    (m.put k v).byteAt a = if a = k then some v else m.byteAt a := by
  induction m with
  | nil => simp [Memory.put, Memory.byteAt]
  | cons c m ih =>
    obtain ⟨b, w⟩ := c
    by_cases h1 : k < b
    · simp [Memory.put, Memory.byteAt, h1]
    · by_cases h2 : k = b
      · subst h2
        by_cases h3 : a = k <;> simp [Memory.put, Memory.byteAt, h3]
      · simp only [Memory.put, Memory.byteAt, h1, h2, if_false, ih]
        by_cases h3 : a = b <;> simp [h3]
        intro h; omega

theorem Memory.mem_put {m : Memory} {k : Nat} {v : Byte} {c : Host.Cell} (h : c ∈ m.put k v) :
    c = (k, v) ∨ c ∈ m := by
  induction m with
  | nil => simpa [Memory.put] using h
  | cons d m ih =>
    obtain ⟨b, w⟩ := d
    by_cases h1 : k < b
    · simpa [Memory.put, h1] using h
    · by_cases h2 : k = b
      · rcases (by simpa [Memory.put, h2] using h : c = (b, v) ∨ c ∈ m) with h' | h'
        · exact .inl (by rw [h', h2])
        · exact .inr (List.mem_cons_of_mem _ h')
      · rcases (by simpa [Memory.put, h1, h2] using h : c = (b, w) ∨ c ∈ Memory.put m k v) with h' | h'
        · exact .inr (h' ▸ List.mem_cons_self)
        · exact (ih h').imp id (List.mem_cons_of_mem _)

/-- Writing a byte inside WB keeps the canonical form. -/
theorem Memory.wf_put {size : Nat} {m : Memory} {k : Nat} {v : Byte} (hm : m.wf size) (hk : k < size) :
    (m.put k v).wf size := by
  refine ⟨?_, fun c hc => ?_⟩
  · obtain ⟨hm, -⟩ := hm
    induction m with
    | nil => simp [Memory.put]
    | cons c m ih =>
      obtain ⟨b, w⟩ := c
      obtain ⟨hb, hm'⟩ := List.pairwise_cons.mp hm
      by_cases h1 : k < b
      · simp only [Memory.put, h1, if_true]
        refine List.pairwise_cons.mpr ⟨fun d hd => ?_, hm⟩
        rcases List.mem_cons.mp hd with rfl | hd
        · exact h1
        · exact lt_trans h1 (hb d hd)
      · by_cases h2 : k = b
        · simp only [Memory.put, h2, lt_irrefl, if_false, if_true]
          exact List.pairwise_cons.mpr ⟨hb, hm'⟩
        · simp only [Memory.put, h1, h2, if_false]
          refine List.pairwise_cons.mpr ⟨fun d hd => ?_, ih hm'⟩
          rcases Memory.mem_put hd with rfl | hd
          · change b < k; omega
          · exact hb d hd
  · rcases Memory.mem_put hc with rfl | hc
    · exact hk
    · exact hm.2 c hc

/-! ## A byte sequence -/

theorem Memory.byteAt_putAll (m : Memory) (addr : Nat) (bs : List Byte) (a : Nat) :
    (m.putAll addr bs).byteAt a =
      if addr ≤ a ∧ a < addr + bs.length then bs[a - addr]? else m.byteAt a := by
  induction bs generalizing m addr with
  | nil => simp [Memory.putAll]
  | cons b bs ih =>
    rw [Memory.putAll, ih, Memory.byteAt_put]
    by_cases h1 : a = addr
    · simp [h1]
    · by_cases h2 : addr + 1 ≤ a ∧ a < addr + 1 + bs.length
      · have h3 : addr ≤ a ∧ a < addr + (b :: bs).length := by simp; omega
        have h4 : a - addr = a - (addr + 1) + 1 := by omega
        simp only [h2, h3, and_self, if_true, h4, List.getElem?_cons_succ]
      · have h3 : ¬(addr ≤ a ∧ a < addr + (b :: bs).length) := by simp; omega
        simp only [h2, h3, if_false, h1]

/-- A multi-byte write inside WB keeps the canonical form. -/
theorem Memory.wf_putAll {size : Nat} {m : Memory} {addr : Nat} {bs : List Byte} (hm : m.wf size)
    (h : addr + bs.length ≤ size) : (m.putAll addr bs).wf size := by
  induction bs generalizing m addr with
  | nil => exact hm
  | cons b bs ih =>
    simp only [List.length_cons] at h
    exact ih (Memory.wf_put hm (by omega)) (by omega)

/-- The reset memory has the canonical form, whatever the instance's size. -/
theorem Memory.wf_powerOn (p : Params) : (State.powerOn p).wb.wf p.wbSize := by
  simp [Memory.wf]

/-! ## Through the state -/

/-- What every address reads as after a write. -/
theorem State.readByte_memWrite (s : State) (addr : Nat) (bs : List Byte) (a : Nat) :
    (s.memWrite addr bs).readByte a =
      if h : addr ≤ a ∧ a < addr + bs.length then bs[a - addr]'(by omega) else s.readByte a := by
  unfold State.readByte
  rw [State.memWrite_wb, Memory.byteAt_putAll]
  split
  · rename_i h
    rw [List.getElem?_eq_getElem (by omega)]
    rfl
  · rfl

theorem State.readByte_memWrite_outside (s : State) {addr a : Nat} {bs : List Byte}
    (h : a < addr ∨ addr + bs.length ≤ a) : (s.memWrite addr bs).readByte a = s.readByte a := by
  rw [State.readByte_memWrite, dif_neg (by omega)]

@[simp] theorem State.memRead_length (s : State) (a n : Nat) : (s.memRead a n).length = n := by
  simp [State.memRead]

theorem State.memRead_getElem (s : State) (a n k : Nat) (h : k < (s.memRead a n).length) :
    (s.memRead a n)[k] = s.readByte (a + k) := by
  simp [State.memRead]

/-- A read of the range just written gives the bytes written. -/
theorem State.memRead_memWrite (s : State) (addr : Nat) (bs : List Byte) :
    (s.memWrite addr bs).memRead addr bs.length = bs := by
  apply List.ext_getElem
  · simp
  · intro k h1 h2
    rw [State.memRead_getElem, State.readByte_memWrite, dif_pos (by omega)]
    simp

/-- A read depends only on the bytes of its range. -/
theorem State.memRead_congr {s t : State} {a n : Nat} (h : ∀ k < n, s.readByte (a + k) = t.readByte (a + k)) :
    s.memRead a n = t.memRead a n := by
  apply List.ext_getElem
  · simp
  · intro k h1 h2
    rw [State.memRead_getElem, State.memRead_getElem]
    exact h k (by simpa using h1)

theorem State.fits_iff (s : State) (a n : Nat) : s.fits a n = true ↔ a + n ≤ s.params.wbSize := by
  simp [State.fits]

end Sys2Proof.Machine
end

