-- ==== Sys2Proof/Laws/Codec.lean ====
section
/-!
SUPPORT. The option codec's arithmetic: the pad satisfies the alignment contract (41_option_codec.md R100,
R101), a filler has the length of its pad, and the sizes that follow.
-/

namespace Sys2Proof.Machine

/-- The pad is below the factor and brings the end of the stream to the offset (R100). -/
theorem calcPad_spec (osz f o : Nat) (hf : 0 < f) :
    calcPad osz f o < f ∧ (osz + 8 + calcPad osz f o) % f = o % f := by
  have hf' : (0 : Int) < (f : Int) := by omega
  have h0 := Int.emod_nonneg ((o : Int) - ((osz : Int) + (optBase : Int))) (Int.ne_of_gt hf')
  have h1 := Int.emod_lt_of_pos ((o : Int) - ((osz : Int) + (optBase : Int))) hf'
  have hc : ((calcPad osz f o : Nat) : Int) = ((o : Int) - ((osz : Int) + (optBase : Int))) % (f : Int) := by
    unfold calcPad; omega
  refine ⟨by omega, ?_⟩
  have : (((osz + 8 + calcPad osz f o : Nat) : Int)) % (f : Int) = (o : Int) % (f : Int) := by
    push_cast
    rw [hc]
    have : ((osz : Int) + 8 + ((o : Int) - ((osz : Int) + (optBase : Int))) % (f : Int)) % (f : Int)
        = ((osz : Int) + 8 + ((o : Int) - ((osz : Int) + (optBase : Int)))) % (f : Int) := by
      rw [Int.add_emod_emod]
    rw [this]
    congr 1
    simp only [optBase]
    push_cast
    ring
  exact_mod_cast this

/-- There is only one pad with that property. -/
theorem eq_calcPad {osz f o pad : Nat} (h : pad < f) (hc : (osz + 8 + pad) % f = o % f) :
    pad = calcPad osz f o := by
  obtain ⟨h1, h2⟩ := calcPad_spec osz f o (by omega)
  have : (osz + 8 + pad) ≡ (osz + 8 + calcPad osz f o) [MOD f] := by
    unfold Nat.ModEq; rw [hc, h2]
  have h3 : pad ≡ calcPad osz f o [MOD f] := Nat.ModEq.add_left_cancel' (osz + 8) this
  unfold Nat.ModEq at h3
  rwa [Nat.mod_eq_of_lt h, Nat.mod_eq_of_lt h1] at h3

/-- The trailing pad is below 4 and makes the stream's length a multiple of 4 (R101). -/
theorem trailingPad_spec (osz : Nat) : trailingPad osz < 4 ∧ (osz + trailingPad osz) % 4 = 0 := by
  obtain ⟨h1, h2⟩ := calcPad_spec osz 4 0 (by omega)
  exact ⟨h1, by unfold trailingPad streamAlign; simp only at *; omega⟩

theorem trailingPad_of_dvd {osz : Nat} (h : osz % 4 = 0) : trailingPad osz = 0 := by
  have := trailingPad_spec osz
  omega

@[simp] theorem filler_length (p : Params) (pad : Nat) : (filler p pad).length = pad := by
  match pad with
  | 0 => rfl
  | 1 => rfl
  | n + 2 => simp [filler]

@[simp] theorem optionBytes_length (ty n : Byte) (bs : List Byte) :
    (optionBytes ty n bs).length = bs.length + 2 := by
  simp [optionBytes]

@[simp] theorem State.emittedStream_length (s : State) : s.emittedStream.length = s.streamSize := by
  simp [State.emittedStream, State.streamSize]

theorem State.streamSize_spec (s : State) :
    s.streamSize % 4 = 0 ∧ s.osb.length ≤ s.streamSize ∧ s.streamSize < s.osb.length + 4 := by
  have := trailingPad_spec s.osb.length
  unfold State.streamSize
  omega

/-- A stream that is a multiple of 4 long is emitted as it stands. -/
theorem State.emittedStream_of_dvd {s : State} (h : s.osb.length % 4 = 0) : s.emittedStream = s.osb := by
  simp [State.emittedStream, trailingPad_of_dvd h, filler]

@[simp] theorem Header.bytes_length (h : Header) : h.bytes.length = 8 := rfl

/-- Splitting a 16-bit field into its bytes and joining them gives it back (20_memory.md R43). -/
theorem ofBe16_be16 (v : Half) : ofBe16 (v.extractLsb' 8 8) (v.extractLsb' 0 8) = v := by
  unfold ofBe16
  change @Eq (BitVec (8 + 8)) _ _
  rw [BitVec.extractLsb'_append_extractLsb'_eq_extractLsb' (by decide)]
  exact BitVec.extractLsb'_eq_self

/-- The header read at `a` is `h` when `h`'s bytes stand there (30_encoding.md R71). -/
theorem State.headerAt_eq {s : State} {a : Nat} {h : Header} (hb : s.memRead a 8 = h.bytes) :
    s.headerAt a = h := by
  have hk : ∀ k (hk : k < 8), s.readByte (a + k) = h.bytes[k]'(by simpa using hk) := by
    intro k hk
    rw [← State.memRead_getElem s a 8 k (by simpa using hk)]
    simp [hb]
  have h0 := hk 0 (by omega)
  have h1 := hk 1 (by omega)
  have h2 := hk 2 (by omega)
  have h3 := hk 3 (by omega)
  have h4 := hk 4 (by omega)
  have h5 := hk 5 (by omega)
  have h6 := hk 6 (by omega)
  have h7 := hk 7 (by omega)
  simp only [Nat.add_zero] at h0
  simp [Header.bytes, be16] at h0 h1 h2 h3 h4 h5 h6 h7
  cases h
  simp only [State.headerAt, h0, h1, h2, h3, h4, h5, h6, h7, ofBe16_be16]

end Sys2Proof.Machine
end

