-- ==== Sys2Proof/Laws/Encoding.lean ====
section
/-!
SUPPORT. The descriptor layout: fields and descriptor determine each other (30_encoding.md R61), a mask
acts field by field, and what a row of R63 accepts.
-/

namespace Sys2Proof

/-- Reading the fields of a descriptor built from fields gives them back. -/
@[simp] theorem Fields.ofDesc_toDesc (f : Fields) : Fields.ofDesc f.toDesc = f := by
  cases f
  unfold Fields.ofDesc Fields.toDesc
  simp only [Fields.mk.injEq]
  refine ⟨?_, ?_, ?_, ?_, ?_, ?_, ?_, ?_, ?_, ?_, ?_, ?_, ?_, ?_, ?_, ?_, ?_⟩ <;>
    (change @BitVec.extractLsb' (8+8+8+8+64+32+32+32+32+32+16+16+16+8+8+32+32) _ _ _ = _
     repeat (first
       | rw [BitVec.extractLsb'_append_eq_of_le (by decide)]
       | rw [BitVec.extractLsb'_append_eq_of_add_le (by decide)])
     exact BitVec.extractLsb'_eq_self)

/-- A descriptor is built from its fields: the fields cover all 384 bits. -/
@[simp] theorem Fields.toDesc_ofDesc (d : Desc) : (Fields.ofDesc d).toDesc = d := by
  unfold Fields.ofDesc Fields.toDesc
  change @Eq (BitVec (8+8+8+8+64+32+32+32+32+32+16+16+16+8+8+32+32)) _ _
  repeat rw [BitVec.extractLsb'_append_extractLsb'_eq_extractLsb' (by decide)]
  exact BitVec.extractLsb'_eq_self

theorem Fields.toDesc_injective {f g : Fields} (h : f.toDesc = g.toDesc) : f = g := by
  simpa using congrArg Fields.ofDesc h

/-- The bitwise conjunction of two descriptors' fields. -/
def Fields.land (f g : Fields) : Fields where
  op := f.op &&& g.op
  seg := f.seg &&& g.seg
  afac := f.afac &&& g.afac
  aoff := f.aoff &&& g.aoff
  now := f.now &&& g.now
  pkt := f.pkt &&& g.pkt
  our := f.our &&& g.our
  nhop := f.nhop &&& g.nhop
  src := f.src &&& g.src
  dst := f.dst &&& g.dst
  ida := f.ida &&& g.ida
  idb := f.idb &&& g.idb
  foff := f.foff &&& g.foff
  otype := f.otype &&& g.otype
  olen := f.olen &&& g.olen
  arg := f.arg &&& g.arg
  arg2 := f.arg2 &&& g.arg2

/-- A mask acts field by field. -/
theorem Fields.toDesc_and (f g : Fields) : f.toDesc &&& g.toDesc = (f.land g).toDesc := by
  unfold Fields.toDesc Fields.land
  change @Eq (BitVec (8+8+8+8+64+32+32+32+32+32+16+16+16+8+8+32+32)) (_ &&& _) _
  repeat rw [BitVec.and_append]

/-- A descriptor under a mask, by its fields. -/
theorem Desc.and_eq_toDesc (d m : Desc) : d &&& m = ((Fields.ofDesc d).land (Fields.ofDesc m)).toDesc := by
  rw [← Fields.toDesc_and, Fields.toDesc_ofDesc, Fields.toDesc_ofDesc]

/-- A row of R63 accepts exactly the fields it allows. -/
theorem Fields.selects_eq_ok {f a : Fields} {m : String} {i j : Instr} :
    f.selects a m i = .ok j ↔ f = a ∧ i = j := by
  unfold Fields.selects
  split <;> simp_all

/-- A descriptor's fields decide what it decodes to. -/
theorem decode_toDesc (f : Fields) : decode f.toDesc = decodeFields f := by
  simp [decode]

/-! ## The 48 bytes (R60) -/

theorem toBe_length (n v : Nat) : (toBe n v).length = n := by
  induction n generalizing v with
  | zero => rfl
  | succ n ih => simp [toBe, ih]

/-- `from_be` undoes `be` (00_scope.md section 6.1), up to the bytes there are. -/
theorem fromBe_toBe (n v : Nat) : fromBe (toBe n v) = v % 256 ^ n := by
  induction n generalizing v with
  | zero => simp [toBe, fromBe, Nat.mod_one]
  | succ n ih =>
    have h : fromBe (toBe (n + 1) v) = fromBe (toBe n (v / 256)) * 256 + v % 256 := by
      simp [toBe, fromBe, List.foldl_append]
    rw [h, ih, Nat.pow_succ', Nat.mod_mul, Nat.mul_comm, Nat.add_comm]

/-- The byte decoder, given a descriptor's 48 bytes, decodes the descriptor. -/
theorem decodeBytes_descBytes (d : Desc) : decodeBytes (descBytes d) = decode d := by
  have h : BitVec.ofNat 384 (fromBe (descBytes d)) = d := by
    unfold descBytes
    have hlt : d.toNat < 256 ^ 48 := lt_of_lt_of_eq d.isLt (pow_mul 2 8 48)
    rw [fromBe_toBe, Nat.mod_eq_of_lt hlt]
    exact BitVec.ofNat_toNat 384 d |>.trans (BitVec.setWidth_eq d)
  rw [decodeBytes, if_pos (show (descBytes d).length = 48 from toBe_length 48 d.toNat), h]

end Sys2Proof
end

