-- ==== Sys2Proof/Laws/Frame.lean ====
section
/-!
SUPPORT. Frames compose, what each shared update leaves alone, and what the three ways a command can end
answer (00_scope.md section 6.4, 60_exceptions.md R203, R204, R207).
-/

namespace Sys2Proof.Machine

/-! ## The algebra of frames -/

theorem Part.same_refl (p : Part) (s : State) : p.same s s := by
  cases p <;> simp [Part.same]

theorem Part.same_trans {p : Part} {s t u : State} (h1 : p.same s t) (h2 : p.same t u) : p.same s u := by
  cases p <;> simp_all [Part.same]

theorem Frame.refl (c : List Part) (s : State) : Frame c s s := fun p _ => p.same_refl s

theorem Frame.trans {c : List Part} {s t u : State} (h1 : Frame c s t) (h2 : Frame c t u) : Frame c s u :=
  fun p hp => Part.same_trans (h1 p hp) (h2 p hp)

theorem Frame.mono {c c' : List Part} {s t : State} (h : Frame c s t) (hc : c ⊆ c') : Frame c' s t :=
  fun p hp => h p fun hp' => hp (hc hp')

/-! ## What the shared updates leave alone -/

theorem frame_reply (c : List Part) (s : State) (r : Response) (evs : List Event) :
    Frame c s (s.reply r evs) := by
  intro p _
  cases p <;> simp [Part.same]

theorem frame_memWrite (s : State) (a : Nat) (bs : List Byte) : Frame [.wire] s (s.memWrite a bs) := by
  intro p hp
  cases p <;> simp_all [Part.same]

theorem frame_raiseWireBounds (s : State) (info : Word) : Frame [.status] s (s.raiseWireBounds info) := by
  intro p hp
  cases p <;> simp_all [Part.same]

theorem frame_mbPurge (s : State) (now : Dword) : Frame [.maint] s (s.mbPurge now) := by
  intro p hp
  cases p <;> simp_all [Part.same]

theorem frame_pbPurge (s : State) (now : Dword) : Frame [.passive] s (s.pbPurge now) := by
  intro p hp
  cases p <;> simp_all [Part.same]

theorem frame_nqCleanup (s : State) (now : Dword) : Frame [.queue] s (s.nqCleanup now) := by
  intro p hp
  cases p <;> simp_all [Part.same]

theorem frame_resetExceptWire (s : State) :
    Frame [.header, .stream, .maint, .passive, .queue, .mbMaxLen, .mbTimeout, .pbMaxLen, .pbTimeout,
      .nqMaxSize, .nqMaxDelay, .status] s s.resetExceptWire := by
  intro p hp
  cases p <;> simp_all [Part.same]

/-- A refusal leaves every piece of state alone. -/
theorem frame_raise (s : State) {st : Status} (h : st.isFault = false) : Frame [] s (s.raise st) := by
  rw [State.raise_eq_reply s h]
  exact frame_reply [] s _ _

/-! ## How a command ends -/

@[simp] theorem unlessHalted_running {s : State} (h : s.fault = false) (k : State) :
    s.unlessHalted k = .next k := by
  simp [State.unlessHalted, complete, h]

@[simp] theorem unlessHalted_halted {s : State} (h : s.fault = true) (k : State) :
    s.unlessHalted k = .next (s.reply { status := .errHalted } []) := by
  simp [State.unlessHalted, complete, h]

/-- All that a command which respects the halt can answer. -/
theorem unlessHalted_cases {s k t : State} (h : s.unlessHalted k = .next t) :
    (s.fault = true ∧ t = s.reply { status := .errHalted } []) ∨ (s.fault = false ∧ t = k) := by
  cases hf : s.fault with
  | true => exact .inl ⟨rfl, by simpa [hf] using h.symm⟩
  | false => exact .inr ⟨rfl, by simpa [hf] using h.symm⟩

/-- The descriptor the executor accepts is the first one presented (70_reset_and_hazards.md R234). -/
theorem State.accept_cons {s : State} {d : Desc} {rest : List Desc} (h : s.input = d :: rest) :
    s.accept = some (d, { s with input := rest }) := by
  simp [State.accept, h]

theorem State.accept_nil {s : State} (h : s.input = []) : s.accept = none := by
  simp [State.accept, h]

/-- Presenting a descriptor and accepting it gives the state back. -/
@[simp] theorem State.accept_present (s : State) (d : Desc) : (s.present d).accept = some (d, s) := rfl

end Sys2Proof.Machine
end

