-- ==== Sys2Proof/Laws/Stores.lean ====
section
/-!
SUPPORT. The entry stores: everything each shared operation over MB, PB and NQ can do, said once
(20_memory.md R42, 43_maintenance_buffer.md R130 to R146, 44_passive_buffer.md R160 to R172,
45_network_queue.md R180 to R184).
-/

namespace Sys2Proof.Machine

/-! ## Scanning from the front -/

/-- The first element a scan finds, and the sequence without it. -/
theorem scan_some {α : Type} {p : α → Bool} {l : List α} {e : α} (h : l.find? p = some e) :
    ∃ front back, l = front ++ e :: back ∧ (∀ x ∈ front, p x = false) ∧ p e = true ∧
      l.eraseP p = front ++ back := by
  obtain ⟨he, front, back, rfl, hf⟩ := List.find?_eq_some_iff_append.mp h
  have hf' : ∀ x ∈ front, p x = false := by simpa using hf
  exact ⟨front, back, rfl, hf', he,
    by rw [List.eraseP_append_right _ (by simpa using hf), List.eraseP_cons_of_pos he]⟩

/-- A scan that splits a sequence at its first match finds that match. -/
theorem scan_of_split {α : Type} {p : α → Bool} {front back : List α} {e : α}
    (hf : ∀ x ∈ front, p x = false) (he : p e = true) :
    (front ++ e :: back).find? p = some e ∧ (front ++ e :: back).eraseP p = front ++ back ∧
      (front ++ e :: back).any p = true :=
  ⟨List.find?_eq_some_iff_append.mpr ⟨he, front, back, rfl, by simpa using hf⟩,
    by rw [List.eraseP_append_right _ (by simpa using hf), List.eraseP_cons_of_pos he], by simp [he]⟩

/-- Making room never leaves more than the bound less one, in a buffer that was within it. -/
theorem makeRoom_length_lt {α : Type} {maxLen : Word} {l : List α} (h1 : 1 ≤ maxLen.toNat)
    (h : l.length ≤ maxLen.toNat) : (makeRoom maxLen l).length < maxLen.toNat := by
  unfold makeRoom
  split
  · rw [List.length_tail]; omega
  · omega

/-- Making room removes at most one element. -/
theorem makeRoom_length_le {α : Type} (maxLen : Word) (l : List α) :
    (makeRoom maxLen l).length ≤ l.length ∧ l.length ≤ (makeRoom maxLen l).length + 1 := by
  unfold makeRoom
  split
  · rw [List.length_tail]; omega
  · omega

theorem makeRoom_sublist {α : Type} (maxLen : Word) (l : List α) : (makeRoom maxLen l).Sublist l := by
  unfold makeRoom
  split
  · exact List.tail_sublist l
  · exact List.Sublist.refl l

/-! ## Expiry -/

theorem pastDeadline_eq_true {d : Int} {now : Dword} : pastDeadline d now = true ↔ d < (now.toNat : Int) := by
  simp [pastDeadline]

theorem pastDeadline_eq_false {d : Int} {now : Dword} : pastDeadline d now = false ↔ (now.toNat : Int) ≤ d := by
  simp [pastDeadline]

/-! ## Maintenance buffer -/

/-- What a sweep leaves is live, and it leaves every live entry. -/
theorem mem_mbLive {s : State} {now : Dword} {e : MaintEntry} :
    e ∈ s.mbLive now ↔ e ∈ s.mb ∧ (now.toNat : Int) ≤ e.deadline := by
  simp [State.mbLive, MaintEntry.expired, pastDeadline]

theorem mbLive_sublist (s : State) (now : Dword) : (s.mbLive now).Sublist s.mb := List.filter_sublist

/-- All that MB.ENQ can do after its sweep (R132). -/
theorem mbAdmit_cases (s : State) (c : MaintEntry) :
    ((∃ e ∈ s.mb, e.allEqual c = true) ∧ s.mbAdmit c = s.reply { flag := false }) ∨
    ((∀ e ∈ s.mb, e.allEqual c = false) ∧
      s.mbAdmit c = { s with mb := makeRoom s.mbMaxLen s.mb ++ [c] }.reply { flag := true }) := by
  by_cases h : s.mb.any (·.allEqual c) = true
  · exact .inl ⟨by simpa using h, by simp [State.mbAdmit, h]⟩
  · exact .inr ⟨by simpa using h, by simp [State.mbAdmit, h]⟩

/-- All that MB.DEQ can do after its sweep (R133). -/
theorem mbTake_cases (s : State) (nhop : Word) :
    (∃ front e back, s.mb = front ++ e :: back ∧ (∀ x ∈ front, x.nhop ≠ nhop) ∧ e.nhop = nhop ∧
      s.mbTake nhop = { s with mb := front ++ back }.reply { flag := true, entry := some (.maint e) }) ∨
    ((∀ e ∈ s.mb, e.nhop ≠ nhop) ∧ s.mbTake nhop = s.reply { flag := false }) := by
  cases h : s.mb.find? (MaintEntry.hasNextHop nhop) with
  | some e =>
    obtain ⟨front, back, h1, h2, h3, h4⟩ := scan_some h
    exact .inl ⟨front, e, back, h1, by simpa [MaintEntry.hasNextHop] using h2,
      by simpa [MaintEntry.hasNextHop] using h3, by simp [State.mbTake, h, h4]⟩
  | none =>
    exact .inr ⟨by simpa [MaintEntry.hasNextHop] using h, by simp [State.mbTake, h]⟩

/-- All that a predicate can do (R146). -/
theorem mbConsume_cases (s : State) (p : MaintEntry → Bool) :
    (∃ front e back, s.mb = front ++ e :: back ∧ (∀ x ∈ front, p x = false) ∧ p e = true ∧
      s.mbConsume p = { s with mb := front ++ back }.reply { flag := true }) ∨
    ((∀ e ∈ s.mb, p e = false) ∧ s.mbConsume p = s.reply { flag := false }) := by
  cases h : s.mb.find? p with
  | some e =>
    obtain ⟨front, back, h1, h2, h3, h4⟩ := scan_some h
    have ha : s.mb.any p = true := by simp [h1, h3]
    exact .inl ⟨front, e, back, h1, h2, h3, by simp [State.mbConsume, ha, h4]⟩
  | none =>
    have hn : ∀ e ∈ s.mb, p e = false := by simpa using h
    have ha : s.mb.any p = false := by simpa using hn
    exact .inr ⟨hn, by simp [State.mbConsume, ha]⟩

/-! ## Passive buffer -/

theorem mem_pbLive {s : State} {now : Dword} {e : PassiveEntry} :
    e ∈ s.pbLive now ↔ e ∈ s.pb ∧ (now.toNat : Int) ≤ e.deadline := by
  simp [State.pbLive, PassiveEntry.expired, pastDeadline]

theorem pbLive_sublist (s : State) (now : Dword) : (s.pbLive now).Sublist s.pb := List.filter_sublist

/-- The sweep's events are the expired entries of PB, each as stored (R161). -/
theorem mem_pbExpiredEvents {s : State} {now : Dword} {ev : Event} :
    ev ∈ s.pbExpiredEvents now ↔ ∃ e ∈ s.pb, e.deadline < (now.toNat : Int) ∧ ev = .drop .expired e := by
  simp only [State.pbExpiredEvents, List.mem_map, List.mem_filter, PassiveEntry.expired, pastDeadline,
    decide_eq_true_eq]
  constructor
  · rintro ⟨e, ⟨h1, h2⟩, rfl⟩; exact ⟨e, h1, h2, rfl⟩
  · rintro ⟨e, h1, h2, rfl⟩; exact ⟨e, ⟨h1, h2⟩, rfl⟩

/-- All that PB.ENQ can do after its sweep (R163). -/
theorem pbAdmit_cases (s : State) (c : PassiveEntry) (evs : List Event) :
    ((∃ e ∈ s.pb, e.duplicates s.params.pbExactDupReject c = true) ∧
      s.pbAdmit c evs = s.reply { flag := false } evs) ∨
    ((∀ e ∈ s.pb, e.duplicates s.params.pbExactDupReject c = false) ∧
      s.pbAdmit c evs =
        { s with pb := makeRoom s.pbMaxLen s.pb ++ [c] }.reply { flag := true }
          (evs ++ evictEvents s.pbMaxLen s.pb)) := by
  by_cases h : s.pb.any (·.duplicates s.params.pbExactDupReject c) = true
  · exact .inl ⟨by simpa using h, by simp [State.pbAdmit, h]⟩
  · exact .inr ⟨by simpa using h, by simp [State.pbAdmit, h]⟩

/-- All that PB.DEQ can do after its sweep (R164). -/
theorem pbTake_cases (s : State) (key : Word) (evs : List Event) :
    (∃ front e back, s.pb = front ++ e :: back ∧ (∀ x ∈ front, x.key s.params.pbLookupKey ≠ key) ∧
      e.key s.params.pbLookupKey = key ∧
      s.pbTake key evs =
        { s with pb := front ++ back }.reply { flag := true, entry := some (.passive e) } evs) ∨
    ((∀ e ∈ s.pb, e.key s.params.pbLookupKey ≠ key) ∧ s.pbTake key evs = s.reply { flag := false } evs) := by
  cases h : s.pb.find? (PassiveEntry.hasKey s.params.pbLookupKey key) with
  | some e =>
    obtain ⟨front, back, h1, h2, h3, h4⟩ := scan_some h
    exact .inl ⟨front, e, back, h1, by simpa [PassiveEntry.hasKey] using h2,
      by simpa [PassiveEntry.hasKey] using h3, by simp [State.pbTake, h, h4]⟩
  | none =>
    exact .inr ⟨by simpa [PassiveEntry.hasKey] using h, by simp [State.pbTake, h]⟩

/-- All that PB.ALLEQ can do (R166). -/
theorem pbConsume_cases (s : State) (p : PassiveEntry → Bool) :
    (∃ front e back, s.pb = front ++ e :: back ∧ (∀ x ∈ front, p x = false) ∧ p e = true ∧
      s.pbConsume p = { s with pb := front ++ back }.reply { flag := true }) ∨
    ((∀ e ∈ s.pb, p e = false) ∧ s.pbConsume p = s.reply { flag := false }) := by
  cases h : s.pb.find? p with
  | some e =>
    obtain ⟨front, back, h1, h2, h3, h4⟩ := scan_some h
    have ha : s.pb.any p = true := by simp [h1, h3]
    exact .inl ⟨front, e, back, h1, h2, h3, by simp [State.pbConsume, ha, h4]⟩
  | none =>
    have hn : ∀ e ∈ s.pb, p e = false := by simpa using h
    have ha : s.pb.any p = false := by simpa using hn
    exact .inr ⟨hn, by simp [State.pbConsume, ha]⟩

/-! ## Network queue -/

theorem mem_nqLive {s : State} {now : Dword} {e : QueueEntry} :
    e ∈ s.nqLive now ↔ e ∈ s.nq ∧ (now.toNat : Int) ≤ (e.ts.toNat : Int) + s.nqMaxDelay.toInt := by
  simp only [State.nqLive, List.mem_filter, QueueEntry.expired, Bool.not_eq_true', pastDeadline_eq_false,
    deadlineAt, duration]

theorem nqLive_sublist (s : State) (now : Dword) : (s.nqLive now).Sublist s.nq := List.filter_sublist

/-- All that NQ.DEQ can do after its cleanup (R182). -/
theorem nqPop_cases (s : State) :
    (s.nq = [] ∧ s.nqPop = s.reply { flag := false }) ∨
    (∃ e rest, s.nq = e :: rest ∧
      s.nqPop = { s with nq := rest }.reply { flag := true, entry := some (.queue e) }) := by
  cases h : s.nq with
  | nil => exact .inl ⟨rfl, by simp [State.nqPop, h]⟩
  | cons e rest => exact .inr ⟨e, rest, rfl, by simp [State.nqPop, h]⟩

/-! ## Frames of the shared operations -/

theorem frame_setStream (s : State) (l : List Byte) (r : Response) (evs : List Event) :
    Frame [.stream] s ({ s with osb := l }.reply r evs) := by
  intro p hp
  cases p <;> simp_all [Part.same, State.readByte]

theorem frame_setMaint (s : State) (l : List MaintEntry) (r : Response) (evs : List Event) :
    Frame [.maint] s ({ s with mb := l }.reply r evs) := by
  intro p hp
  cases p <;> simp_all [Part.same, State.readByte]

theorem frame_setPassive (s : State) (l : List PassiveEntry) (r : Response) (evs : List Event) :
    Frame [.passive] s ({ s with pb := l }.reply r evs) := by
  intro p hp
  cases p <;> simp_all [Part.same, State.readByte]

theorem frame_setQueue (s : State) (l : List QueueEntry) (r : Response) (evs : List Event) :
    Frame [.queue] s ({ s with nq := l }.reply r evs) := by
  intro p hp
  cases p <;> simp_all [Part.same, State.readByte]

theorem frame_mbAdmit (s : State) (c : MaintEntry) : Frame [.maint] s (s.mbAdmit c) := by
  rcases mbAdmit_cases s c with ⟨-, h⟩ | ⟨-, h⟩ <;> rw [h]
  · exact frame_reply _ _ _ _
  · exact frame_setMaint _ _ _ _

theorem frame_mbTake (s : State) (nhop : Word) : Frame [.maint] s (s.mbTake nhop) := by
  rcases mbTake_cases s nhop with ⟨_, _, _, -, -, -, h⟩ | ⟨-, h⟩ <;> rw [h]
  · exact frame_setMaint _ _ _ _
  · exact frame_reply _ _ _ _

theorem frame_mbDropAll (s : State) (nhop : Word) : Frame [.maint] s (s.mbDropAll nhop) :=
  frame_setMaint _ _ _ _

theorem frame_mbConsume (s : State) (p : MaintEntry → Bool) : Frame [.maint] s (s.mbConsume p) := by
  rcases mbConsume_cases s p with ⟨_, _, _, -, -, -, h⟩ | ⟨-, h⟩ <;> rw [h]
  · exact frame_setMaint _ _ _ _
  · exact frame_reply _ _ _ _

theorem frame_pbAdmit (s : State) (c : PassiveEntry) (evs : List Event) :
    Frame [.passive] s (s.pbAdmit c evs) := by
  rcases pbAdmit_cases s c evs with ⟨-, h⟩ | ⟨-, h⟩ <;> rw [h]
  · exact frame_reply _ _ _ _
  · exact frame_setPassive _ _ _ _

theorem frame_pbTake (s : State) (key : Word) (evs : List Event) :
    Frame [.passive] s (s.pbTake key evs) := by
  rcases pbTake_cases s key evs with ⟨_, _, _, -, -, -, h⟩ | ⟨-, h⟩ <;> rw [h]
  · exact frame_setPassive _ _ _ _
  · exact frame_reply _ _ _ _

theorem frame_pbConsume (s : State) (p : PassiveEntry → Bool) : Frame [.passive] s (s.pbConsume p) := by
  rcases pbConsume_cases s p with ⟨_, _, _, -, -, -, h⟩ | ⟨-, h⟩ <;> rw [h]
  · exact frame_setPassive _ _ _ _
  · exact frame_reply _ _ _ _

theorem frame_nqPop (s : State) : Frame [.queue] s s.nqPop := by
  rcases nqPop_cases s with ⟨-, h⟩ | ⟨_, _, -, h⟩ <;> rw [h]
  · exact frame_reply _ _ _ _
  · exact frame_setQueue _ _ _ _

end Sys2Proof.Machine
end

