-- ==== Sys2Proof/Laws/Inversion.lean ====
section
/-!
SUPPORT. What any command can do to each piece of the state, said once. To an entry store: it leaves a
subsequence of the old entries, or it is an enqueue that was admitted (43_maintenance_buffer.md R144,
44_passive_buffer.md R172, R173, 45_network_queue.md R191). To WB, OSB and the bound registers: it keeps them,
or it is one of the commands 10_state.md R11, R13 and R24 to R26 name, inside the limits they state.
-/

namespace Sys2Proof.Machine

/-- What a removal from the middle leaves. -/
theorem sublist_of_split {α : Type} {l front back : List α} {e : α} (h : l = front ++ e :: back) :
    (front ++ back).Sublist l := by
  subst h
  exact List.Sublist.append (List.Sublist.refl _) (List.sublist_cons_self e back)

theorem mbConsume_sublist (s : State) (p : MaintEntry → Bool) : (s.mbConsume p).mb.Sublist s.mb := by
  rcases mbConsume_cases s p with ⟨_, _, _, h1, -, -, h⟩ | ⟨-, h⟩ <;> rw [h]
  · exact sublist_of_split h1
  · exact List.Sublist.refl _

/-- All that a command can do to MB. -/
theorem exec_maint {i : Instr} {s t : State} (h : exec i s = .next t) :
    t.mb.Sublist s.mb ∨
    ∃ seg now pkt our nhop src dst ack, ∃ c : MaintEntry,
      i = .mbEnq seg now pkt our nhop src dst ack ∧ nowLegal now = true ∧
      c = ⟨pkt, our, nhop, src, dst, ack, seg, deadlineAt now s.mbTimeout⟩ ∧
      (∀ e ∈ s.mbLive now, e.allEqual c = false) ∧
      t = { s with mb := makeRoom s.mbMaxLen (s.mbLive now) ++ [c] }.reply { flag := true } := by
  cases i
  case sysReset => cases h; exact .inl (List.nil_sublist _)
  case sysStatus => cases h; exact .inl (List.Sublist.refl _)
  all_goals
    rcases unlessHalted_cases h with ⟨-, rfl⟩ | ⟨-, rfl⟩
    · exact .inl (List.Sublist.refl _)
  case mbEnq seg now pkt our nhop src dst ack =>
    split
    · rename_i hn
      rcases mbAdmit_cases (s.mbPurge now)
        ⟨pkt, our, nhop, src, dst, ack, seg, deadlineAt now s.mbTimeout⟩ with ⟨-, h⟩ | ⟨h1, h⟩
      · rw [h]; exact .inl (mbLive_sublist s now)
      · exact .inr ⟨seg, now, pkt, our, nhop, src, dst, ack, _, rfl, hn, rfl, h1, h⟩
    · exact .inl (List.Sublist.refl _)
  case mbDeq now nhop =>
    split
    · rcases mbTake_cases (s.mbPurge now) nhop with ⟨_, _, _, h1, -, -, h⟩ | ⟨-, h⟩ <;> rw [h]
      · exact .inl ((sublist_of_split h1).trans (mbLive_sublist s now))
      · exact .inl (mbLive_sublist s now)
    · exact .inl (List.Sublist.refl _)
  case mbDropnh now nhop =>
    split
    · exact .inl (List.filter_sublist.trans (mbLive_sublist s now))
    · exact .inl (List.Sublist.refl _)
  case mbAlleq | mbNeteq | mbPromeq | mbLinkeq => exact .inl (mbConsume_sublist s _)
  case mbPurge now | mbSize now =>
    split
    · exact .inl (mbLive_sublist s now)
    · exact .inl (List.Sublist.refl _)
  case pbEnq | pbDeq | nqDeq =>
    left
    split
    · first
        | exact (frame_pbAdmit _ _ _ .maint (by decide)).symm ▸ List.Sublist.refl _
        | exact (frame_pbTake _ _ _ .maint (by decide)).symm ▸ List.Sublist.refl _
        | exact (frame_nqPop _ .maint (by decide)).symm ▸ List.Sublist.refl _
    · exact List.Sublist.refl _
  case pbAlleq => exact .inl ((frame_pbConsume _ _ .maint (by decide)).symm ▸ List.Sublist.refl _)
  all_goals (left; (repeat' split) <;> exact List.Sublist.refl _)

/-- All that a command can do to PB. -/
theorem exec_passive {i : Instr} {s t : State} (h : exec i s = .next t) :
    t.pb.Sublist s.pb ∨
    ∃ seg now pkt nhop src dst pid ident foff, ∃ c : PassiveEntry,
      i = .pbEnq seg now pkt nhop src dst pid ident foff ∧ nowLegal now = true ∧
      c = ⟨pkt, pid, src, dst, nhop, ident, foff, seg, deadlineAt now s.pbTimeout⟩ ∧
      (∀ e ∈ s.pbLive now, e.duplicates s.params.pbExactDupReject c = false) ∧
      t = { s with pb := makeRoom s.pbMaxLen (s.pbLive now) ++ [c] }.reply { flag := true }
        (s.pbExpiredEvents now ++ evictEvents s.pbMaxLen (s.pbLive now)) := by
  cases i
  case sysReset => cases h; exact .inl (List.nil_sublist _)
  case sysStatus => cases h; exact .inl (List.Sublist.refl _)
  all_goals
    rcases unlessHalted_cases h with ⟨-, rfl⟩ | ⟨-, rfl⟩
    · exact .inl (List.Sublist.refl _)
  case pbEnq seg now pkt nhop src dst pid ident foff =>
    split
    · rename_i hn
      rcases pbAdmit_cases (s.pbPurge now)
        ⟨pkt, pid, src, dst, nhop, ident, foff, seg, deadlineAt now s.pbTimeout⟩
        (s.pbExpiredEvents now) with ⟨-, h⟩ | ⟨h1, h⟩
      · rw [h]; exact .inl (pbLive_sublist s now)
      · exact .inr ⟨seg, now, pkt, nhop, src, dst, pid, ident, foff, _, rfl, hn, rfl, h1, h⟩
    · exact .inl (List.Sublist.refl _)
  case pbDeq now key =>
    split
    · rcases pbTake_cases (s.pbPurge now) key (s.pbExpiredEvents now) with
        ⟨_, _, _, h1, -, -, h⟩ | ⟨-, h⟩ <;> rw [h]
      · exact .inl ((sublist_of_split h1).trans (pbLive_sublist s now))
      · exact .inl (pbLive_sublist s now)
    · exact .inl (List.Sublist.refl _)
  case pbAlleq =>
    rcases pbConsume_cases s _ with ⟨_, _, _, h1, -, -, h⟩ | ⟨-, h⟩ <;> rw [h]
    · exact .inl (sublist_of_split h1)
    · exact .inl (List.Sublist.refl _)
  case pbPurge now | pbSize now =>
    split
    · exact .inl (pbLive_sublist s now)
    · exact .inl (List.Sublist.refl _)
  case mbEnq | mbDeq | nqDeq =>
    left
    split
    · first
        | exact (frame_mbAdmit _ _ .passive (by decide)).symm ▸ List.Sublist.refl _
        | exact (frame_mbTake _ _ .passive (by decide)).symm ▸ List.Sublist.refl _
        | exact (frame_nqPop _ .passive (by decide)).symm ▸ List.Sublist.refl _
    · exact List.Sublist.refl _
  case mbAlleq | mbNeteq | mbPromeq | mbLinkeq =>
    exact .inl ((frame_mbConsume _ _ .passive (by decide)).symm ▸ List.Sublist.refl _)
  all_goals (left; (repeat' split) <;> exact List.Sublist.refl _)

/-- All that a command can do to NQ. -/
theorem exec_queue {i : Instr} {s t : State} (h : exec i s = .next t) :
    t.nq.Sublist s.nq ∨
    ∃ now pkt nhop, i = .nqEnq now pkt nhop ∧ nowLegal now = true ∧ s.nq.length < s.nqMaxSize.toNat ∧
      t = { s with nq := s.nq ++ [QueueEntry.mk pkt nhop now] }.reply { flag := true } := by
  cases i
  case sysReset => cases h; exact .inl (List.nil_sublist _)
  case sysStatus => cases h; exact .inl (List.Sublist.refl _)
  all_goals
    rcases unlessHalted_cases h with ⟨-, rfl⟩ | ⟨-, rfl⟩
    · exact .inl (List.Sublist.refl _)
  case nqEnq now pkt nhop =>
    split
    · rename_i hn
      split
      · exact .inl (List.Sublist.refl _)
      · exact .inr ⟨now, pkt, nhop, rfl, hn, by omega, rfl⟩
    · exact .inl (List.Sublist.refl _)
  case nqDeq now =>
    split
    · rcases nqPop_cases (s.nqCleanup now) with ⟨-, h⟩ | ⟨e, rest, h1, h⟩ <;> rw [h]
      · exact .inl (nqLive_sublist s now)
      · refine .inl (List.Sublist.trans ?_ (nqLive_sublist s now))
        rw [State.nqCleanup_nq] at h1
        rw [h1]
        exact List.sublist_cons_self e rest
    · exact .inl (List.Sublist.refl _)
  case nqFindpop key =>
    split
    · exact .inl List.eraseP_sublist
    · exact .inl (List.Sublist.refl _)
  case nqFlush => exact .inl (List.nil_sublist _)
  case nqCleanup now | nqSize now =>
    split
    · exact .inl (nqLive_sublist s now)
    · exact .inl (List.Sublist.refl _)
  case mbEnq | mbDeq | pbEnq | pbDeq =>
    left
    split
    · first
        | exact (frame_mbAdmit _ _ .queue (by decide)).symm ▸ List.Sublist.refl _
        | exact (frame_mbTake _ _ .queue (by decide)).symm ▸ List.Sublist.refl _
        | exact (frame_pbAdmit _ _ _ .queue (by decide)).symm ▸ List.Sublist.refl _
        | exact (frame_pbTake _ _ _ .queue (by decide)).symm ▸ List.Sublist.refl _
    · exact List.Sublist.refl _
  case mbAlleq | mbNeteq | mbPromeq | mbLinkeq =>
    exact .inl ((frame_mbConsume _ _ .queue (by decide)).symm ▸ List.Sublist.refl _)
  case pbAlleq => exact .inl ((frame_pbConsume _ _ .queue (by decide)).symm ▸ List.Sublist.refl _)
  all_goals (left; (repeat' split) <;> exact List.Sublist.refl _)

/-- All that a command can do to WB: keep it, or write a byte sequence that fits (10_state.md R13, R49). -/
theorem exec_wire {i : Instr} {s t : State} (h : exec i s = .next t) :
    t.wb = s.wb ∨ ∃ a bs, a + bs.length ≤ s.params.wbSize ∧ t.wb = s.wb.putAll a bs := by
  cases i
  case sysReset => cases h; exact .inl rfl
  case sysStatus => cases h; exact .inl rfl
  all_goals
    rcases unlessHalted_cases h with ⟨-, rfl⟩ | ⟨-, rfl⟩
    · exact .inl rfl
  case wbWrite a b =>
    split
    · exact .inl rfl
    · rename_i v hv
      split
      · rename_i hfit
        exact .inr ⟨a.toNat, [v], (s.fits_iff a.toNat 1).mp hfit, rfl⟩
      · exact .inl rfl
  case ofSerialize a =>
    split
    · rename_i hfit
      exact .inr ⟨a.toNat, s.emittedStream, by simpa using (s.fits_iff _ _).mp hfit, rfl⟩
    · exact .inl rfl
  case hdrSerialize a =>
    split
    · rename_i hfit
      refine .inr ⟨a.toNat, s.hdr.bytes ++ s.emittedStream, ?_, rfl⟩
      have := (s.fits_iff _ _).mp hfit
      simpa [State.headerSize, fixedSize] using this
    · exact .inl rfl
  case mbAlleq | mbNeteq | mbPromeq | mbLinkeq => left; unfold State.mbConsume; split <;> rfl
  case pbAlleq => left; unfold State.pbConsume; split <;> rfl
  case mbEnq => left; split; unfold State.mbAdmit; split <;> rfl; rfl
  case mbDeq => left; split; unfold State.mbTake; split <;> rfl; rfl
  case pbEnq => left; split; unfold State.pbAdmit; split <;> rfl; rfl
  case pbDeq => left; split; unfold State.pbTake; split <;> rfl; rfl
  case nqDeq => left; split; unfold State.nqPop; split <;> rfl; rfl
  all_goals (left; (repeat' split) <;> rfl)

/-- All that a command can do to OSB: keep it, or leave a stream within OSB_CAP (10_state.md R11). -/
theorem exec_stream {i : Instr} {s t : State} (h : exec i s = .next t) :
    t.osb = s.osb ∨ t.osb.length ≤ s.params.osbCap := by
  cases i
  case sysReset => cases h; exact .inr (Nat.zero_le _)
  case sysStatus => cases h; exact .inl rfl
  all_goals
    rcases unlessHalted_cases h with ⟨-, rfl⟩ | ⟨-, rfl⟩
    · exact .inl rfl
  case ofClear => exact .inr (Nat.zero_le _)
  case ofAppend f o ty n a =>
    split
    · exact .inl rfl
    · split
      · exact .inl rfl
      · split
        · exact .inl rfl
        · split
          · exact .inl rfl
          · right
            simp only [State.appendOption, State.reply_osb, List.length_append, filler_length,
              optionBytes_length, State.memRead_length]
            omega
  case ofDeserialize a n =>
    split
    · exact .inl rfl
    · split
      · right
        simp only [State.reply_osb, State.memRead_length]
        omega
      · exact .inl rfl
  case hdrDeserialize a =>
    split
    · exact .inl rfl
    · split
      · exact .inl rfl
      · split
        · exact .inl rfl
        · right
          simp only [State.reply_osb, State.memRead_length]
          omega
  case mbAlleq | mbNeteq | mbPromeq | mbLinkeq => left; unfold State.mbConsume; split <;> rfl
  case pbAlleq => left; unfold State.pbConsume; split <;> rfl
  case mbEnq => left; split; unfold State.mbAdmit; split <;> rfl; rfl
  case mbDeq => left; split; unfold State.mbTake; split <;> rfl; rfl
  case pbEnq => left; split; unfold State.pbAdmit; split <;> rfl; rfl
  case pbDeq => left; split; unfold State.pbTake; split <;> rfl; rfl
  case nqDeq => left; split; unfold State.nqPop; split <;> rfl; rfl
  all_goals (left; (repeat' split) <;> rfl)

/-- All that a command can do to the bound registers (10_state.md R24 to R26). -/
theorem exec_bounds {i : Instr} {s t : State} (h : exec i s = .next t) :
    (t.mbMaxLen = s.mbMaxLen ∨ t.mbMaxLen = BitVec.ofNat 32 s.params.mbSlots ∧ i = .sysReset ∨
      ∃ n, i = .mbSetmaxlen n ∧ t.mbMaxLen = n ∧ 1 ≤ n.toNat ∧ n.toNat ≤ s.params.mbSlots) ∧
    (t.pbMaxLen = s.pbMaxLen ∨ t.pbMaxLen = BitVec.ofNat 32 s.params.pbSlots ∧ i = .sysReset ∨
      ∃ n, i = .pbSetmaxlen n ∧ t.pbMaxLen = n ∧ 1 ≤ n.toNat ∧ n.toNat ≤ s.params.pbSlots) ∧
    (t.nqMaxSize = s.nqMaxSize ∨ t.nqMaxSize = BitVec.ofNat 32 s.params.nqSlots ∧ i = .sysReset ∨
      ∃ n, i = .nqSetmaxsize n ∧ t.nqMaxSize = n ∧ n.toNat ≤ s.params.nqSlots) := by
  cases i
  case sysReset =>
    cases h
    exact ⟨.inr (.inl ⟨rfl, rfl⟩), .inr (.inl ⟨rfl, rfl⟩), .inr (.inl ⟨rfl, rfl⟩)⟩
  case sysStatus => cases h; exact ⟨.inl rfl, .inl rfl, .inl rfl⟩
  all_goals
    rcases unlessHalted_cases h with ⟨-, rfl⟩ | ⟨-, rfl⟩
    · exact ⟨.inl rfl, .inl rfl, .inl rfl⟩
  case mbSetmaxlen n =>
    split
    · exact ⟨.inl rfl, .inl rfl, .inl rfl⟩
    · exact ⟨.inr (.inr ⟨n, rfl, rfl, by omega, by omega⟩), .inl rfl, .inl rfl⟩
  case pbSetmaxlen n =>
    split
    · exact ⟨.inl rfl, .inl rfl, .inl rfl⟩
    · exact ⟨.inl rfl, .inr (.inr ⟨n, rfl, rfl, by omega, by omega⟩), .inl rfl⟩
  case nqSetmaxsize n =>
    split
    · exact ⟨.inl rfl, .inl rfl, .inl rfl⟩
    · exact ⟨.inl rfl, .inl rfl, .inr (.inr ⟨n, rfl, rfl, by omega⟩)⟩
  case mbAlleq | mbNeteq | mbPromeq | mbLinkeq =>
    unfold State.mbConsume; split <;> exact ⟨.inl rfl, .inl rfl, .inl rfl⟩
  case pbAlleq => unfold State.pbConsume; split <;> exact ⟨.inl rfl, .inl rfl, .inl rfl⟩
  case mbEnq =>
    unfold State.mbAdmit; (repeat' split) <;> exact ⟨.inl rfl, .inl rfl, .inl rfl⟩
  case mbDeq =>
    unfold State.mbTake; (repeat' split) <;> exact ⟨.inl rfl, .inl rfl, .inl rfl⟩
  case pbEnq =>
    unfold State.pbAdmit; (repeat' split) <;> exact ⟨.inl rfl, .inl rfl, .inl rfl⟩
  case pbDeq =>
    unfold State.pbTake; (repeat' split) <;> exact ⟨.inl rfl, .inl rfl, .inl rfl⟩
  case nqDeq =>
    unfold State.nqPop; (repeat' split) <;> exact ⟨.inl rfl, .inl rfl, .inl rfl⟩
  all_goals ((repeat' split) <;> exact ⟨.inl rfl, .inl rfl, .inl rfl⟩)

end Sys2Proof.Machine
end

