-- ==== Sys2Proof/Laws/Outcome.lean ====
section
/-!
SUPPORT. The three ways a command can end (00_scope.md section 6.4): with OK, with a bare refusal, or with
the fault. Every later fact about refusals cites this and unfolds no command.
-/

namespace Sys2Proof.Machine

/-- Every command answers a next state (00_scope.md R3). -/
theorem exec_total (i : Instr) (s : State) : ∃ t, exec i s = .next t := by
  cases i <;> exact ⟨_, rfl⟩

/-- All that a command can answer, seen from its response: OK; or a refusal, which is the old state with a
bare response (60_exceptions.md R204); or the fault of a deserialize command (R207). -/
theorem exec_outcome {i : Instr} {s t : State} (h : exec i s = .next t) :
    t.resp.status = .ok ∨
    (∃ st, st.isFault = false ∧ st ≠ .ok ∧ t = s.reply { status := st } []) ∨
    (s.fault = false ∧ ∃ a, ((∃ n, i = .ofDeserialize a n) ∨ i = .hdrDeserialize a) ∧ t = s.raiseWireBounds a) := by
  cases i
  case sysReset => cases h; exact .inl rfl
  case sysStatus => cases h; exact .inl rfl
  all_goals
    rcases unlessHalted_cases h with ⟨-, rfl⟩ | ⟨hf, rfl⟩
    · exact .inr (.inl ⟨.errHalted, rfl, by decide, rfl⟩)
  case ofClear | ofSize | hdrSet | hdrGet | hdrSize | mbFind | mbSettimeout | pbFind | pbSettimeout |
      pbDroplink | nqFind | nqFlush | nqSetmaxdelay =>
    exact .inl rfl
  case mbAlleq | mbNeteq | mbPromeq | mbLinkeq =>
    unfold State.mbConsume
    split <;> exact .inl rfl
  case pbAlleq =>
    unfold State.pbConsume
    split <;> exact .inl rfl
  case ofDeserialize a n =>
    split
    · exact .inr (.inl ⟨.errOverflow, rfl, by decide, rfl⟩)
    · split
      · exact .inl rfl
      · exact .inr (.inr ⟨hf, a, .inl ⟨n, rfl⟩, rfl⟩)
  case hdrDeserialize a =>
    split
    · exact .inr (.inr ⟨hf, a, .inr rfl, rfl⟩)
    · split
      · exact .inr (.inl ⟨.errOverflow, rfl, by decide, rfl⟩)
      · split
        · exact .inr (.inr ⟨hf, a, .inr rfl, rfl⟩)
        · exact .inl rfl
  case mbEnq =>
    split
    · unfold State.mbAdmit; split <;> exact .inl rfl
    · exact .inr (.inl ⟨.errArg, rfl, by decide, rfl⟩)
  case mbDeq =>
    split
    · unfold State.mbTake; split <;> exact .inl rfl
    · exact .inr (.inl ⟨.errArg, rfl, by decide, rfl⟩)
  case pbEnq =>
    split
    · unfold State.pbAdmit; split <;> exact .inl rfl
    · exact .inr (.inl ⟨.errArg, rfl, by decide, rfl⟩)
  case pbDeq =>
    split
    · unfold State.pbTake; split <;> exact .inl rfl
    · exact .inr (.inl ⟨.errArg, rfl, by decide, rfl⟩)
  case nqDeq =>
    split
    · unfold State.nqPop; split <;> exact .inl rfl
    · exact .inr (.inl ⟨.errArg, rfl, by decide, rfl⟩)
  case nqEnq =>
    split
    · split <;> exact .inl rfl
    · exact .inr (.inl ⟨.errArg, rfl, by decide, rfl⟩)
  case nqFindpop => split <;> exact .inl rfl
  case optDecode =>
    split
    · exact .inr (.inl ⟨.errArg, rfl, by decide, rfl⟩)
    · split
      · exact .inl rfl
      · split
        · exact .inr (.inl ⟨.errTrunc, rfl, by decide, rfl⟩)
        · split
          · exact .inr (.inl ⟨.errTrunc, rfl, by decide, rfl⟩)
          · exact .inl rfl
  case ofAppend =>
    split
    · exact .inr (.inl ⟨.errArg, rfl, by decide, rfl⟩)
    · split
      · exact .inr (.inl ⟨.errArg, rfl, by decide, rfl⟩)
      · split
        · exact .inr (.inl ⟨.errBounds, rfl, by decide, rfl⟩)
        · split
          · exact .inr (.inl ⟨.errOverflow, rfl, by decide, rfl⟩)
          · exact .inl rfl
  case wbWrite =>
    split
    · exact .inr (.inl ⟨.errArg, rfl, by decide, rfl⟩)
    · split
      · exact .inl rfl
      · exact .inr (.inl ⟨.errBounds, rfl, by decide, rfl⟩)
  all_goals
    split <;> first
      | exact .inl rfl
      | exact .inr (.inl ⟨.errArg, rfl, by decide, rfl⟩)
      | exact .inr (.inl ⟨.errBounds, rfl, by decide, rfl⟩)

end Sys2Proof.Machine
end

