-- ==== Sys2Proof/Laws/PerInstr.lean ====
section
/-!
SUPPORT. A law of every command as syntax: its descriptor carries its opcode in `op` (30_encoding.md R61,
R63). One lemma per constructor.
-/

/-- The `op` field of the command's descriptor is the command's opcode. -/
def Sys2Proof.Laws.EncodedOpcode.Statement (i : Sys2Proof.Instr) : Prop :=
  (Sys2Proof.Fields.ofDesc (Sys2Proof.encode i)).op = i.opcode

namespace Sys2Proof.Laws.EncodedOpcode

open Sys2Proof

/-- The fields of an encoded command are the fields it was encoded from. -/
theorem statement_of_fields {i : Instr} (h : (encodeFields i).op = i.opcode) : Statement i := by
  unfold Statement encode
  rw [Fields.ofDesc_toDesc, h]

theorem sysReset : Statement .sysReset := statement_of_fields rfl
theorem sysStatus : Statement .sysStatus := statement_of_fields rfl
theorem cfgGet (arg : Word) : Statement (.cfgGet arg) := statement_of_fields rfl
theorem wbWrite (arg arg2 : Word) : Statement (.wbWrite arg arg2) := statement_of_fields rfl
theorem wbRead (arg : Word) : Statement (.wbRead arg) := statement_of_fields rfl
theorem ofClear : Statement .ofClear := statement_of_fields rfl
theorem ofCalcpad (afac aoff : Byte) : Statement (.ofCalcpad afac aoff) := statement_of_fields rfl
theorem ofAppend (afac aoff otype olen : Byte) (arg : Word) :
    Statement (.ofAppend afac aoff otype olen arg) := statement_of_fields rfl
theorem ofSize : Statement .ofSize := statement_of_fields rfl
theorem ofSerialize (arg : Word) : Statement (.ofSerialize arg) := statement_of_fields rfl
theorem ofDeserialize (arg arg2 : Word) : Statement (.ofDeserialize arg arg2) := statement_of_fields rfl
theorem ofRead (arg : Word) : Statement (.ofRead arg) := statement_of_fields rfl
theorem optDecode (arg : Word) : Statement (.optDecode arg) := statement_of_fields rfl
theorem hdrSet (sid did plen : Half) (nh mt : Byte) :
    Statement (.hdrSet sid did plen nh mt) := statement_of_fields rfl
theorem hdrGet : Statement .hdrGet := statement_of_fields rfl
theorem hdrSize : Statement .hdrSize := statement_of_fields rfl
theorem hdrSerialize (arg : Word) : Statement (.hdrSerialize arg) := statement_of_fields rfl
theorem hdrDeserialize (arg : Word) : Statement (.hdrDeserialize arg) := statement_of_fields rfl
theorem mbEnq (seg : Byte) (now : Dword) (pkt our nhop src dst : Word) (ida : Half) :
    Statement (.mbEnq seg now pkt our nhop src dst ida) := statement_of_fields rfl
theorem mbDeq (now : Dword) (nhop : Word) : Statement (.mbDeq now nhop) := statement_of_fields rfl
theorem mbFind (nhop : Word) : Statement (.mbFind nhop) := statement_of_fields rfl
theorem mbDropnh (now : Dword) (nhop : Word) : Statement (.mbDropnh now nhop) := statement_of_fields rfl
theorem mbAlleq (seg : Byte) (our nhop src dst : Word) (ida : Half) :
    Statement (.mbAlleq seg our nhop src dst ida) := statement_of_fields rfl
theorem mbNeteq (our nhop src dst : Word) (ida : Half) :
    Statement (.mbNeteq our nhop src dst ida) := statement_of_fields rfl
theorem mbPromeq (seg : Byte) (src dst : Word) (ida : Half) :
    Statement (.mbPromeq seg src dst ida) := statement_of_fields rfl
theorem mbLinkeq (our nhop src dst : Word) :
    Statement (.mbLinkeq our nhop src dst) := statement_of_fields rfl
theorem mbPurge (now : Dword) : Statement (.mbPurge now) := statement_of_fields rfl
theorem mbSize (now : Dword) : Statement (.mbSize now) := statement_of_fields rfl
theorem mbSetmaxlen (arg : Word) : Statement (.mbSetmaxlen arg) := statement_of_fields rfl
theorem mbSettimeout (arg arg2 : Word) : Statement (.mbSettimeout arg arg2) := statement_of_fields rfl
theorem pbEnq (seg : Byte) (now : Dword) (pkt nhop src dst : Word) (ida idb foff : Half) :
    Statement (.pbEnq seg now pkt nhop src dst ida idb foff) := statement_of_fields rfl
theorem pbDeq (now : Dword) (nhop : Word) : Statement (.pbDeq now nhop) := statement_of_fields rfl
theorem pbFind (nhop : Word) : Statement (.pbFind nhop) := statement_of_fields rfl
theorem pbAlleq (seg : Byte) (nhop src dst : Word) (ida idb foff : Half) :
    Statement (.pbAlleq seg nhop src dst ida idb foff) := statement_of_fields rfl
theorem pbPurge (now : Dword) : Statement (.pbPurge now) := statement_of_fields rfl
theorem pbSize (now : Dword) : Statement (.pbSize now) := statement_of_fields rfl
theorem pbSetmaxlen (arg : Word) : Statement (.pbSetmaxlen arg) := statement_of_fields rfl
theorem pbSettimeout (arg arg2 : Word) : Statement (.pbSettimeout arg arg2) := statement_of_fields rfl
theorem pbDroplink (pkt nhop src : Word) : Statement (.pbDroplink pkt nhop src) := statement_of_fields rfl
theorem nqEnq (now : Dword) (pkt nhop : Word) : Statement (.nqEnq now pkt nhop) := statement_of_fields rfl
theorem nqDeq (now : Dword) : Statement (.nqDeq now) := statement_of_fields rfl
theorem nqFind (nhop : Word) : Statement (.nqFind nhop) := statement_of_fields rfl
theorem nqFindpop (nhop : Word) : Statement (.nqFindpop nhop) := statement_of_fields rfl
theorem nqFlush : Statement .nqFlush := statement_of_fields rfl
theorem nqCleanup (now : Dword) : Statement (.nqCleanup now) := statement_of_fields rfl
theorem nqSize (now : Dword) : Statement (.nqSize now) := statement_of_fields rfl
theorem nqSetmaxsize (arg : Word) : Statement (.nqSetmaxsize arg) := statement_of_fields rfl
theorem nqSetmaxdelay (arg arg2 : Word) : Statement (.nqSetmaxdelay arg arg2) := statement_of_fields rfl

end Sys2Proof.Laws.EncodedOpcode
end

