-- ==== Sys2Proof/WellFormed.lean ====
section
/-!
DEFINITION. Operand legality. Every term of `Instr` has an encoding, since its operands have the widths
of the descriptor fields; what remains to check is that the operands lie in the ranges of 30_encoding.md
R65 and 60_exceptions.md R205 that do not depend on the state. A command outside them is a legal
descriptor that the block answers with ERR_ARG.
-/

namespace Sys2Proof

/-- The clock operand is below 2^63 (R65). -/
def nowInRange (now : Dword) : Bool := decide (now.toNat < 2 ^ 63)

/-- The selectors CFG.GET accepts (10_state.md R28, R92). -/
def selectorAssigned (sel : Word) : Bool := decide (sel.toNat < 6 ∨ 8 ≤ sel.toNat ∧ sel.toNat < 16)

/-- A bound for a buffer that must hold at least one entry (R142, R169). -/
def maxLenInRange (slots : Nat) (n : Word) : Bool := decide (1 ≤ n.toNat ∧ n.toNat ≤ slots)

/-- The operands of a command are in range on an instance with parameters `p`: none of the
state-independent causes of ERR_ARG of R205 holds. -/
def Instr.wf (p : Params) : Instr → Bool
  | .cfgGet sel => selectorAssigned sel
  | .wbWrite _ byte => decide (byte.toNat ≤ 255)
  | .ofCalcpad afac _ => decide (afac ≠ 0)
  | .ofAppend afac _ otype _ _ => decide (afac ≠ 0 ∧ otype ≠ p.pad1Type ∧ otype ≠ p.padNType)
  | .mbEnq _ now .. => nowInRange now
  | .mbDeq now _ => nowInRange now
  | .mbDropnh now _ => nowInRange now
  | .mbPurge now => nowInRange now
  | .mbSize now => nowInRange now
  | .mbSetmaxlen n => maxLenInRange p.mbSlots n
  | .pbEnq _ now .. => nowInRange now
  | .pbDeq now _ => nowInRange now
  | .pbPurge now => nowInRange now
  | .pbSize now => nowInRange now
  | .pbSetmaxlen n => maxLenInRange p.pbSlots n
  | .nqEnq now _ _ => nowInRange now
  | .nqDeq now => nowInRange now
  | .nqCleanup now => nowInRange now
  | .nqSize now => nowInRange now
  | .nqSetmaxsize n => decide (n.toNat ≤ p.nqSlots)
  | .sysReset | .sysStatus | .wbRead .. | .ofClear | .ofSize | .ofSerialize .. | .ofDeserialize ..
  | .ofRead .. | .optDecode .. | .hdrSet .. | .hdrGet | .hdrSize | .hdrSerialize .. | .hdrDeserialize ..
  | .mbFind .. | .mbAlleq .. | .mbNeteq .. | .mbPromeq .. | .mbLinkeq .. | .mbSettimeout ..
  | .pbFind .. | .pbAlleq .. | .pbSettimeout .. | .pbDroplink .. | .nqFind .. | .nqFindpop ..
  | .nqFlush | .nqSetmaxdelay .. => true

end Sys2Proof
end

