-- ==== Sys2Proof/Tests/Slice0.lean ====
section
/-!
SUPPORT. The model's own tests: the operand checks refuse what they should, descriptors written out from the
spec's encodings decode to their commands, one step of each command on a small state, and a concrete state
and operands that meet the hypotheses of each statement. The expected results are those of the examples in
the spec's rules (cited at each test) and of 95_test_vectors.md.
-/

namespace Sys2Proof.Tests

open Sys2Proof.Machine Sys2Proof.Spec

/-- The state a command leads to. -/
def after (i : Instr) (s : State) : State :=
  match exec i s with
  | .next t => t
  | .fault _ => s
  | .refused _ => s

/-- The state a step leads to. -/
def stepped (s : State) : State :=
  match step s with
  | .next t => t
  | .fault _ => s
  | .refused _ => s

/-- The reset state with an option stream. -/
def withStream (bs : List Byte) : State := { State.reset with osb := bs }

/-- The reset state with maintenance entries. -/
def withMaint (es : List MaintEntry) : State := { State.reset with mb := es }

/-- The reset state with passive entries. -/
def withPassive (es : List PassiveEntry) : State := { State.reset with pb := es }

/-- The reset state with queue entries and a maximum delay. -/
def withQueue (es : List QueueEntry) (maxDelay : Dword) : State :=
  { State.reset with nq := es, nqMaxDelay := maxDelay }

/-- The halted block. -/
def halted : State := State.reset.raiseWireBounds 0x1FFFF

/-- The wire bytes of R81's header from 0x200, and its option 1 with a trailing filler from 0x300. -/
def wired : State :=
  { State.reset with
    wb := (Memory.putAll [] 0x200 [0x11, 0x02, 0x0A, 0x0B, 0x0C, 0x0D, 0x00, 0x04, 0x60, 0x00, 0x00, 0x00]).putAll
      0x300 [0x60, 0x03, 0xAA, 0xBB, 0xCC, 0x00, 0x01, 0x00] }

/-- Option 1 of R81: type 0x60, payload AA BB CC. -/
def option1 : List Byte := [0x60, 0x03, 0xAA, 0xBB, 0xCC]

/-- Entries of 43_maintenance_buffer.md's examples: the next-hop, ackId, segmentsLeft and deadline vary. -/
def mEntry (pkt our nhop : Word) (ack : Half) (seg : Byte) (deadline : Int) : MaintEntry :=
  ⟨pkt, our, nhop, 2, 3, ack, seg, deadline⟩

/-- Entries of 44_passive_buffer.md's examples. -/
def pEntry (pkt nhop : Word) (seg : Byte) (deadline : Int) : PassiveEntry :=
  ⟨pkt, 100, 2, 3, nhop, 7, 0, seg, deadline⟩

/-! ## Operand checks: an ill-formed term for each, and the nearest well-formed ones -/

theorem test_wf_selector :
    Instr.wf .default (.cfgGet 6) = false ∧ Instr.wf .default (.cfgGet 7) = false ∧
    Instr.wf .default (.cfgGet 16) = false ∧ Instr.wf .default (.cfgGet 5) = true ∧
    Instr.wf .default (.cfgGet 15) = true := by decide

theorem test_wf_byte :
    Instr.wf .default (.wbWrite 0 256) = false ∧ Instr.wf .default (.wbWrite 0 255) = true := by decide

theorem test_wf_factor :
    Instr.wf .default (.ofCalcpad 0 0) = false ∧ Instr.wf .default (.ofCalcpad 1 0) = true ∧
    Instr.wf .default (.ofAppend 0 0 0x60 0 0) = false := by decide

theorem test_wf_reserved_tag :
    Instr.wf .default (.ofAppend 4 0 1 0 0) = false ∧ Instr.wf .default (.ofAppend 4 0 0 0 0) = false ∧
    Instr.wf .default (.ofAppend 4 0 2 0 0) = true := by decide

theorem test_wf_now :
    (∀ i ∈ [Instr.mbEnq 0 0x8000000000000000 0 0 0 0 0 0, .mbDeq 0x8000000000000000 0,
        .mbDropnh 0x8000000000000000 0, .mbPurge 0x8000000000000000, .mbSize 0x8000000000000000,
        .pbEnq 0 0x8000000000000000 0 0 0 0 0 0 0, .pbDeq 0x8000000000000000 0, .pbPurge 0x8000000000000000,
        .pbSize 0x8000000000000000, .nqEnq 0x8000000000000000 0 0, .nqDeq 0x8000000000000000,
        .nqCleanup 0x8000000000000000, .nqSize 0x8000000000000000], i.wf .default = false) ∧
    Instr.wf .default (.mbPurge 0x7FFFFFFFFFFFFFFF) = true := by decide

theorem test_wf_bound :
    Instr.wf .default (.mbSetmaxlen 0) = false ∧ Instr.wf .default (.mbSetmaxlen 65) = false ∧
    Instr.wf .default (.mbSetmaxlen 1) = true ∧ Instr.wf .default (.mbSetmaxlen 64) = true ∧
    Instr.wf .default (.pbSetmaxlen 0) = false ∧ Instr.wf .default (.pbSetmaxlen 65) = false ∧
    Instr.wf .default (.nqSetmaxsize 65) = false ∧ Instr.wf .default (.nqSetmaxsize 0) = true := by decide

/-! ## Decoding, each word written out from the spec's encoding -/

/-- R90 example. -/
theorem test_decode_sysReset :
    decode 0x010000000000000000000000000000000000000000000000000000000000000000000000000000000000000000000000#384
      = .ok .sysReset := by decide

/-- R91. -/
theorem test_decode_sysStatus :
    decode 0x020000000000000000000000000000000000000000000000000000000000000000000000000000000000000000000000#384
      = .ok .sysStatus := by decide

/-- R92. -/
theorem test_decode_cfgGet :
    decode 0x030000000000000000000000000000000000000000000000000000000000000000000000000000000000000F00000000#384
      = .ok (.cfgGet 15) := by decide

/-- R93 example. -/
theorem test_decode_wbWrite :
    decode 0x0800000000000000000000000000000000000000000000000000000000000000000000000000000000000100000000AA#384
      = .ok (.wbWrite 0x100 0xAA) := by decide

/-- R94 example. -/
theorem test_decode_wbRead :
    decode 0x090000000000000000000000000000000000000000000000000000000000000000000000000000000000010000000000#384
      = .ok (.wbRead 0x100) := by decide

/-- R102. -/
theorem test_decode_ofClear :
    decode 0x100000000000000000000000000000000000000000000000000000000000000000000000000000000000000000000000#384
      = .ok .ofClear := by decide

/-- R103, W0 = 11000802. -/
theorem test_decode_ofCalcpad :
    decode 0x110008020000000000000000000000000000000000000000000000000000000000000000000000000000000000000000#384
      = .ok (.ofCalcpad 8 2) := by decide

/-- R104 example. -/
theorem test_decode_ofAppend :
    decode 0x120008020000000000000000000000000000000000000000000000000000000000000000000061060000011000000000#384
      = .ok (.ofAppend 8 2 0x61 6 0x110) := by decide

/-- R105. -/
theorem test_decode_ofSize :
    decode 0x130000000000000000000000000000000000000000000000000000000000000000000000000000000000000000000000#384
      = .ok .ofSize := by decide

/-- R106, W0 and W10. -/
theorem test_decode_ofSerialize :
    decode 0x140000000000000000000000000000000000000000000000000000000000000000000000000000000000030000000000#384
      = .ok (.ofSerialize 0x300) := by decide

/-- R107, W0, W10 and W11. -/
theorem test_decode_ofDeserialize :
    decode 0x150000000000000000000000000000000000000000000000000000000000000000000000000000000000030000000008#384
      = .ok (.ofDeserialize 0x300 8) := by decide

/-- R108, W0 and W10. -/
theorem test_decode_ofRead :
    decode 0x160000000000000000000000000000000000000000000000000000000000000000000000000000000000000200000000#384
      = .ok (.ofRead 2) := by decide

/-- R110 example. -/
theorem test_decode_optDecode :
    decode 0x170000000000000000000000000000000000000000000000000000000000000000000000000000000000000500000000#384
      = .ok (.optDecode 5) := by decide

/-- R120 example. -/
theorem test_decode_hdrSet :
    decode 0x18000000000000000000000000000000000000000000000000000000000000000A0B0C0D001411020000000000000000#384
      = .ok (.hdrSet 0x0A0B 0x0C0D 20 0x11 0x02) := by decide

/-- R121. -/
theorem test_decode_hdrGet :
    decode 0x190000000000000000000000000000000000000000000000000000000000000000000000000000000000000000000000#384
      = .ok .hdrGet := by decide

/-- R122. -/
theorem test_decode_hdrSize :
    decode 0x1A0000000000000000000000000000000000000000000000000000000000000000000000000000000000000000000000#384
      = .ok .hdrSize := by decide

/-- R123 example. -/
theorem test_decode_hdrSerialize :
    decode 0x1B0000000000000000000000000000000000000000000000000000000000000000000000000000000000020000000000#384
      = .ok (.hdrSerialize 0x200) := by decide

/-- R124 example. -/
theorem test_decode_hdrDeserialize :
    decode 0x1C0000000000000000000000000000000000000000000000000000000000000000000000000000000000020000000000#384
      = .ok (.hdrDeserialize 0x200) := by decide

/-- R132 example. -/
theorem test_decode_mbEnq :
    decode 0x2004000000000000000000640000000A0000000100000058000000020000000300070000000000000000000000000000#384
      = .ok (.mbEnq 4 100 0xA 1 0x58 2 3 7) := by decide

/-- R133 example. -/
theorem test_decode_mbDeq :
    decode 0x210000000000000000000067000000000000000000000059000000000000000000000000000000000000000000000000#384
      = .ok (.mbDeq 103 0x59) := by decide

/-- R134 example. -/
theorem test_decode_mbFind :
    decode 0x220000000000000000000000000000000000000000000058000000000000000000000000000000000000000000000000#384
      = .ok (.mbFind 0x58) := by decide

/-- R135 example. -/
theorem test_decode_mbDropnh :
    decode 0x230000000000000000000014000000000000000000000058000000000000000000000000000000000000000000000000#384
      = .ok (.mbDropnh 20 0x58) := by decide

/-- R136 example. -/
theorem test_decode_mbAlleq :
    decode 0x240300000000000000000000000000000000000100000058000000020000000300070000000000000000000000000000#384
      = .ok (.mbAlleq 3 1 0x58 2 3 7) := by decide

/-- R137 example. -/
theorem test_decode_mbNeteq :
    decode 0x250000000000000000000000000000000000000900000077000000020000000300070000000000000000000000000000#384
      = .ok (.mbNeteq 9 0x77 2 3 7) := by decide

/-- R138 example. -/
theorem test_decode_mbPromeq :
    decode 0x260400000000000000000000000000000000000000000000000000020000000300070000000000000000000000000000#384
      = .ok (.mbPromeq 4 2 3 7) := by decide

/-- R139 example. -/
theorem test_decode_mbLinkeq :
    decode 0x270000000000000000000000000000000000000100000058000000020000000300000000000000000000000000000000#384
      = .ok (.mbLinkeq 1 0x58 2 3) := by decide

/-- R140 example. -/
theorem test_decode_mbPurge :
    decode 0x28000000000000000000002B000000000000000000000000000000000000000000000000000000000000000000000000#384
      = .ok (.mbPurge 43) := by decide

/-- R141 example. -/
theorem test_decode_mbSize :
    decode 0x290000000000000000000085000000000000000000000000000000000000000000000000000000000000000000000000#384
      = .ok (.mbSize 133) := by decide

/-- R142 example. -/
theorem test_decode_mbSetmaxlen :
    decode 0x2A0000000000000000000000000000000000000000000000000000000000000000000000000000000000000200000000#384
      = .ok (.mbSetmaxlen 2) := by decide

/-- R143 example. -/
theorem test_decode_mbSettimeout :
    decode 0x2B000000000000000000000000000000000000000000000000000000000000000000000000000000000000000000001E#384
      = .ok (.mbSettimeout 0 30) := by decide

/-- R163 example. -/
theorem test_decode_pbEnq :
    decode 0x30020000000000000000000B000000520000000000000058000000020000000300640007000000000000000000000000#384
      = .ok (.pbEnq 2 11 0x52 0x58 2 3 100 7 0) := by decide

/-- R164 example. -/
theorem test_decode_pbDeq :
    decode 0x31000000000000000000005000000000000000000000005A000000000000000000000000000000000000000000000000#384
      = .ok (.pbDeq 80 0x5A) := by decide

/-- R165 example. -/
theorem test_decode_pbFind :
    decode 0x320000000000000000000000000000000000000000000059000000000000000000000000000000000000000000000000#384
      = .ok (.pbFind 0x59) := by decide

/-- R166 example. -/
theorem test_decode_pbAlleq :
    decode 0x340200000000000000000000000000000000000000000058000000020000000300640007000000000000000000000000#384
      = .ok (.pbAlleq 2 0x58 2 3 100 7 0) := by decide

/-- R167 example. -/
theorem test_decode_pbPurge :
    decode 0x380000000000000000000047000000000000000000000000000000000000000000000000000000000000000000000000#384
      = .ok (.pbPurge 71) := by decide

/-- R168 example. -/
theorem test_decode_pbSize :
    decode 0x390000000000000000000047000000000000000000000000000000000000000000000000000000000000000000000000#384
      = .ok (.pbSize 71) := by decide

/-- R169 example. -/
theorem test_decode_pbSetmaxlen :
    decode 0x3A0000000000000000000000000000000000000000000000000000000000000000000000000000000000000200000000#384
      = .ok (.pbSetmaxlen 2) := by decide

/-- R170 example. -/
theorem test_decode_pbSettimeout :
    decode 0x3B0000000000000000000000000000000000000000000000000000000000000000000000000000000000000000000032#384
      = .ok (.pbSettimeout 0 50) := by decide

/-- R171 example. -/
theorem test_decode_pbDroplink :
    decode 0x3C0000000000000000000000000000990000000000000058000000020000000000000000000000000000000000000000#384
      = .ok (.pbDroplink 0x99 0x58 2) := by decide

/-- R181 example. -/
theorem test_decode_nqEnq :
    decode 0x400000000000000000000000000000F10000000000000058000000000000000000000000000000000000000000000000#384
      = .ok (.nqEnq 0 0xF1 0x58) := by decide

/-- R182 example. -/
theorem test_decode_nqDeq :
    decode 0x410000000000000000000002000000000000000000000000000000000000000000000000000000000000000000000000#384
      = .ok (.nqDeq 2) := by decide

/-- R183 example. -/
theorem test_decode_nqFind :
    decode 0x420000000000000000000000000000000000000000000059000000000000000000000000000000000000000000000000#384
      = .ok (.nqFind 0x59) := by decide

/-- R184 example. -/
theorem test_decode_nqFindpop :
    decode 0x430000000000000000000000000000000000000000000058000000000000000000000000000000000000000000000000#384
      = .ok (.nqFindpop 0x58) := by decide

/-- R185 example. -/
theorem test_decode_nqFlush :
    decode 0x440000000000000000000000000000000000000000000000000000000000000000000000000000000000000000000000#384
      = .ok .nqFlush := by decide

/-- R186 example. -/
theorem test_decode_nqCleanup :
    decode 0x480000000000000000000010000000000000000000000000000000000000000000000000000000000000000000000000#384
      = .ok (.nqCleanup 16) := by decide

/-- R187 example. -/
theorem test_decode_nqSize :
    decode 0x49000000000000000000000E000000000000000000000000000000000000000000000000000000000000000000000000#384
      = .ok (.nqSize 14) := by decide

/-- R188 example. -/
theorem test_decode_nqSetmaxsize :
    decode 0x4A0000000000000000000000000000000000000000000000000000000000000000000000000000000000000100000000#384
      = .ok (.nqSetmaxsize 1) := by decide

/-- R189 example. -/
theorem test_decode_nqSetmaxdelay :
    decode 0x4B000000000000000000000000000000000000000000000000000000000000000000000000000000000000000000000A#384
      = .ok (.nqSetmaxdelay 0 10) := by decide

/-- R73 (a): the all-zero descriptor, the opcodes the passive buffer does not have and one past the last. -/
theorem test_decode_unknown_opcode :
    decode 0 = .error (.unknownOpcode 0) ∧
    decode 0x330000000000000000000000000000000000000000000000000000000000000000000000000000000000000000000000#384
      = .error (.unknownOpcode 0x33) ∧
    decode 0x4C0000000000000000000000000000000000000000000000000000000000000000000000000000000000000000000000#384
      = .error (.unknownOpcode 0x4C) := by decide

/-- R64, R73 (b): SYS.RESET with the last bit set, MB.NETEQ with `seg` set (R137). -/
theorem test_decode_reserved_bit :
    decode 0x010000000000000000000000000000000000000000000000000000000000000000000000000000000000000000000001#384
      = .error (.reservedBit "SYS.RESET") ∧
    decode 0x250400000000000000000000000000000000000900000077000000020000000300070000000000000000000000000000#384
      = .error (.reservedBit "MB.NETEQ") := by decide

/-- R60: a descriptor is 48 bytes. -/
theorem test_decode_wrong_length :
    decodeBytes (List.replicate 47 0) = .error (.wrongLength 47) := by decide

/-- The table's numbering: the opcode is the top byte. -/
theorem test_decodeTableWord :
    decodeTableWord 384 (0x29 * 2 ^ 376 + 133 * 2 ^ 288) = some (.mbSize 133) ∧ decodeTableWord 384 0 = none := by
  decide

/-- The host's descriptor runs as the first command after reset. -/
theorem test_withFetchWord :
    (stepped (State.reset.withFetchWord 384 (0x2A * 2 ^ 376 + 2 * 2 ^ 32))).mbMaxLen = 2 := by decide

/-- R2: a descriptor is consumed by the step that runs it; R211: with none, nothing happens. -/
theorem test_step_consumes :
    (stepped { State.reset with input := [encode .ofSize, encode .hdrSize] }).input = [encode .hdrSize] ∧
    stepped State.reset = State.reset := by decide

/-- R202: an illegal descriptor is refused although the block is halted (R208). -/
theorem test_step_illegal :
    (stepped { halted with input := [0] }).resp = { status := .errIllegal } := by decide

/-! ## One step of each command -/

/-- R90: everything but WB. -/
theorem test_sysReset :
    (after .sysReset { wired with mb := [mEntry 1 1 1 1 1 9], fault := true, fcause := 0x80 }) =
      { State.reset with wb := wired.wb } := by decide

/-- R91 example. -/
theorem test_sysStatus :
    (after .sysStatus halted).resp = { flag := true, val := 0x80, val2 := 0x1FFFF } := by decide

/-- R92 example, and a duration as its bit pattern. -/
theorem test_cfgGet :
    (after (.cfgGet 0) State.reset).resp.val = 64 ∧
    (after (.cfgGet 1) { State.reset with mbTimeout := 0xFFFFFFFFFFFFFFFF }).resp.val = 0xFFFFFFFFFFFFFFFF ∧
    (after (.cfgGet 6) State.reset).resp.status = .errArg := by decide

/-- R92, R1: the parameters as CFG.GET gives them. -/
theorem test_cfgGet_params :
    [8, 9, 10, 11, 12, 13, 14, 15].map (fun n => (after (.cfgGet n) State.reset).resp.val) =
      [64, 64, 64, 131072, 65535, 1, 0, 8] := by decide

/-- R93 example: the second of two writes stays (R93 corner cases). -/
theorem test_wbWrite :
    (after (.wbWrite 0x100 0xAA) (after (.wbWrite 0x100 0xAB) State.reset)).wb = [(0x100, 0xAA)] := by decide

/-- R93: ERR_ARG comes before ERR_BOUNDS. -/
theorem test_wbWrite_order :
    (after (.wbWrite 131072 256) State.reset).resp.status = .errArg ∧
    (after (.wbWrite 131072 255) State.reset).resp.status = .errBounds := by decide

/-- R94 example. -/
theorem test_wbRead :
    (after (.wbRead 0x100) { State.reset with wb := [(0x100, 0xAA)] }).resp = { val := 0xAA } ∧
    (after (.wbRead 131072) State.reset).resp.status = .errBounds := by decide

/-- R102. -/
theorem test_ofClear : (after .ofClear (withStream option1)).osb = [] := by decide

/-- R103 examples. -/
theorem test_ofCalcpad :
    (after (.ofCalcpad 4 0) (withStream [])).resp.val = 0 ∧ (after (.ofCalcpad 8 2) (withStream option1)).resp.val = 5 ∧
    (after (.ofCalcpad 3 0) (withStream [])).resp.val = 1 ∧
    (after (.ofCalcpad 0 0) (withStream [])).resp.status = .errArg := by decide

/-- R104 example. -/
theorem test_ofAppend :
    let t := after (.ofAppend 8 2 0x61 6 0x110)
      { withStream option1 with wb := Memory.putAll [] 0x110 [0x11, 0x22, 0x33, 0x44, 0x55, 0x66] }
    t.resp = { val := 10, val2 := 5 } ∧
      t.osb = [0x60, 0x03, 0xAA, 0xBB, 0xCC, 0, 3, 0, 0, 0, 0x61, 6, 0x11, 0x22, 0x33, 0x44, 0x55, 0x66] := by
  decide

/-- R104 corner case: a Pad1 in front of the first option; and the order of the refusals. -/
theorem test_ofAppend_first :
    (after (.ofAppend 3 0 0x60 0 0) State.reset).osb = [1, 0x60, 0] ∧
    (after (.ofAppend 0 0 1 255 0xFFFFFFFF) State.reset).resp.status = .errArg ∧
    (after (.ofAppend 4 0 1 255 0xFFFFFFFF) State.reset).resp.status = .errArg ∧
    (after (.ofAppend 4 0 2 255 0xFFFFFFFF) State.reset).resp.status = .errBounds := by decide

/-- R105 examples. -/
theorem test_ofSize :
    (after .ofSize (withStream option1)).resp.val = 8 ∧
    (after .ofSize (withStream (List.replicate 18 0))).resp.val = 20 ∧
    (after .ofSize (withStream (List.replicate 20 0))).resp.val = 20 := by decide

/-- R106 example. -/
theorem test_ofSerialize :
    let t := after (.ofSerialize 0x300) (withStream option1)
    t.resp.val = 8 ∧ t.osb = option1 ∧
      t.memRead 0x300 8 = [0x60, 0x03, 0xAA, 0xBB, 0xCC, 0x00, 0x01, 0x00] ∧ t.wb.length = 8 := by decide

/-- R107 example. -/
theorem test_ofDeserialize :
    (after (.ofDeserialize 0x300 8) wired).osb = [0x60, 0x03, 0xAA, 0xBB, 0xCC, 0x00, 0x01, 0x00] ∧
    (after (.ofDeserialize 0x300 8) wired).resp.val = 8 := by decide

/-- R91, R107: the fault of a range that leaves WB, and ERR_OVERFLOW before it. -/
theorem test_ofDeserialize_fault :
    (after (.ofDeserialize 0x1FFFF 2) State.reset) = halted ∧
    (after (.ofDeserialize 0x1FFFF 65536) State.reset).resp.status = .errOverflow := by decide

/-- R108 example. -/
theorem test_ofRead :
    (after (.ofRead 2) (withStream option1)).resp.val = 0xAA ∧
    (after (.ofRead 5) (withStream option1)).resp.status = .errArg := by decide

/-- R110 examples. -/
theorem test_optDecode :
    let s := withStream
      [0x60, 3, 0xAA, 0xBB, 0xCC, 0, 3, 0, 0, 0, 0x61, 6, 0x11, 0x22, 0x33, 0x44, 0x55, 0x66, 0, 0]
    (after (.optDecode 0) s).resp = { val := 5, val2 := 0x006003 } ∧
    (after (.optDecode 5) s).resp = { val := 5, val2 := 0x020003 } ∧
    (after (.optDecode 10) s).resp = { val := 8, val2 := 0x006106 } ∧
    (after (.optDecode 18) s).resp = { val := 2, val2 := 0x020000 } ∧
    (after (.optDecode 19) s).resp.status = .errTrunc ∧ (after (.optDecode 20) s).resp.status = .errArg := by
  decide

/-- R110: a Pad1. -/
theorem test_optDecode_pad1 :
    (after (.optDecode 0) (withStream [1])).resp = { val := 1, val2 := 0x010100 } := by decide

/-- R120 and R121 examples. -/
theorem test_hdrSet_hdrGet :
    (after .hdrGet (after (.hdrSet 0x0A0B 0x0C0D 20 0x11 0x02) State.reset)).resp.val = 0x11020A0B0C0D0014 := by
  decide

/-- R122 examples. -/
theorem test_hdrSize :
    (after .hdrSize State.reset).resp.val = 8 ∧
    (after .hdrSize (withStream (List.replicate 18 0))).resp.val = 28 := by decide

/-- R123, R71: the fixed header's bytes, big-endian, then the stream and its filler. -/
theorem test_hdrSerialize :
    let t := after (.hdrSerialize 0x200) { withStream option1 with hdr := ⟨0x11, 0x02, 0x0A0B, 0x0C0D, 20⟩ }
    t.resp.val = 16 ∧ t.memRead 0x200 16 =
      [0x11, 0x02, 0x0A, 0x0B, 0x0C, 0x0D, 0x00, 0x14, 0x60, 0x03, 0xAA, 0xBB, 0xCC, 0x00, 0x01, 0x00] := by
  decide

/-- R124. -/
theorem test_hdrDeserialize :
    let t := after (.hdrDeserialize 0x200) wired
    t.resp.val = 12 ∧ t.hdr = ⟨0x11, 0x02, 0x0A0B, 0x0C0D, 4⟩ ∧ t.osb = [0x60, 0, 0, 0] := by decide

/-- R124: the fault of the 8 fixed bytes, and of the declared stream, with H and OSB kept. -/
theorem test_hdrDeserialize_fault :
    (after (.hdrDeserialize 0x1FFF9) State.reset).finfo = 0x1FFF9 ∧
    (after (.hdrDeserialize 0x1FFF8)
      { State.reset with wb := Memory.putAll [] 0x1FFF8 [1, 2, 3, 4, 5, 6, 0, 1] }).resp.status =
        .faultWireBounds := by decide

/-- R132 example. -/
theorem test_mbEnq :
    let t := after (.mbEnq 4 100 0xA 1 0x58 2 3 7) { State.reset with mbTimeout := 30 }
    t.resp = { flag := true } ∧ t.mb = [⟨0xA, 1, 0x58, 2, 3, 7, 4, 130⟩] := by decide

/-- R132: sweep before the duplicate test; eviction of the front entry at the bound. -/
theorem test_mbEnq_order :
    (after (.mbEnq 4 11 9 1 0x58 2 3 7) (withMaint [mEntry 8 1 0x58 7 4 10])).mb = [mEntry 9 1 0x58 7 4 11] ∧
    (after (.mbEnq 4 10 9 1 0x58 2 3 7) (withMaint [mEntry 8 1 0x58 7 4 10])).resp = { flag := false } ∧
    (after (.mbEnq 4 5 9 1 0x58 2 3 7)
      { withMaint [mEntry 1 1 1 1 1 9, mEntry 2 2 2 2 2 9] with mbMaxLen := 2 }).mb =
        [mEntry 2 2 2 2 2 9, mEntry 9 1 0x58 7 4 5] := by decide

/-- R133 example. -/
theorem test_mbDeq :
    let t := after (.mbDeq 103 0x59) (withMaint [mEntry 0xB 1 0x59 7 4 131, mEntry 0xC 1 0x5A 7 4 132])
    t.resp = { flag := true, entry := some (.maint (mEntry 0xB 1 0x59 7 4 131)) } ∧
      t.mb = [mEntry 0xC 1 0x5A 7 4 132] := by decide

/-- R134: an expired entry is still found (R238). -/
theorem test_mbFind :
    (after (.mbFind 0x5A) (withMaint [mEntry 0xC 1 0x5A 7 4 (-1)])).resp.flag = true ∧
    (after (.mbFind 0x58) (withMaint [mEntry 0xC 1 0x5A 7 4 9])).resp.flag = false := by decide

/-- R135 example. -/
theorem test_mbDropnh :
    let t := after (.mbDropnh 20 0x58) (withMaint
      [mEntry 1 1 0x58 7 4 42, mEntry 2 1 0x58 7 3 42, mEntry 3 9 0x77 7 4 42, mEntry 4 1 0x58 8 2 42])
    t.resp = { flag := true, val := 3 } ∧ t.mb = [mEntry 3 9 0x77 7 4 42] := by decide

/-- R136 example. -/
theorem test_mbAlleq :
    (after (.mbAlleq 3 1 0x58 2 3 7) (withMaint [mEntry 1 1 0x58 7 4 42, mEntry 2 1 0x58 7 3 42])).mb =
      [mEntry 1 1 0x58 7 4 42] := by decide

/-- R137 example: `seg` is ignored; only the first match goes. -/
theorem test_mbNeteq :
    (after (.mbNeteq 1 0x58 2 3 7) (withMaint [mEntry 1 1 0x58 7 4 42, mEntry 2 1 0x58 7 3 42])).mb =
      [mEntry 2 1 0x58 7 3 42] := by decide

/-- R138 example: `our` and `nhop` are ignored. -/
theorem test_mbPromeq :
    (after (.mbPromeq 4 2 3 7) (withMaint [mEntry 1 1 0x58 7 4 42, mEntry 3 9 0x77 7 4 42])).mb =
      [mEntry 3 9 0x77 7 4 42] ∧
    (after (.mbPromeq 5 2 3 7) (withMaint [mEntry 1 1 0x58 7 4 42])).resp.flag = false := by decide

/-- R139 example: `ack` and `seg` are ignored. -/
theorem test_mbLinkeq :
    (after (.mbLinkeq 1 0x58 2 3) (withMaint [mEntry 4 1 0x58 8 2 42])).mb = [] ∧
    (after (.mbLinkeq 1 0x59 2 3) (withMaint [mEntry 4 1 0x58 8 2 42])).resp.flag = false := by decide

/-- R140 example: strictly less. -/
theorem test_mbPurge :
    (after (.mbPurge 42) (withMaint [mEntry 3 9 0x77 7 4 42])).resp.val = 0 ∧
    (after (.mbPurge 43) (withMaint [mEntry 3 9 0x77 7 4 42])).resp.val = 1 := by decide

/-- R141 example, and the `now` test (R205). -/
theorem test_mbSize :
    (after (.mbSize 132) (withMaint [mEntry 3 9 0x77 7 4 132])).resp.val = 1 ∧
    (after (.mbSize 133) (withMaint [mEntry 3 9 0x77 7 4 132])).resp.val = 0 ∧
    (after (.mbSize 0x8000000000000000) (withMaint [mEntry 3 9 0x77 7 4 132])).resp.status = .errArg := by decide

/-- R142 example. -/
theorem test_mbSetmaxlen :
    (after (.mbSetmaxlen 2) State.reset).mbMaxLen = 2 ∧
    (after (.mbSetmaxlen 0) State.reset).resp.status = .errArg ∧
    (after (.mbSetmaxlen 65) State.reset).resp.status = .errArg := by decide

/-- R143: the high word is `arg`. -/
theorem test_mbSettimeout :
    (after (.mbSettimeout 1 2) State.reset).mbTimeout = 0x100000002 := by decide

/-- R163 example: one hop on is a duplicate, the same segmentsLeft is not. -/
theorem test_pbEnq :
    let s := { withPassive [pEntry 0x51 0x58 3 60] with pbTimeout := 50 }
    (after (.pbEnq 2 11 0x52 0x58 2 3 100 7 0) s).resp = { flag := false } ∧
    (after (.pbEnq 3 12 0x53 0x58 2 3 100 7 0) s).pb = [pEntry 0x51 0x58 3 60, pEntry 0x53 0x58 3 62] := by decide

/-- R172: the EXPIRED events come first, then the CAPACITY event. -/
theorem test_pbEnq_events :
    let s := { withPassive [pEntry 1 1 3 9, pEntry 2 2 3 99] with pbMaxLen := 1 }
    (after (.pbEnq 3 10 3 3 2 3 100 7 0) s).events =
      [.drop .expired (pEntry 1 1 3 9), .drop .capacity (pEntry 2 2 3 99)] := by decide

/-- R164 example: the entry whose deadline is `now` is live. -/
theorem test_pbDeq :
    let t := after (.pbDeq 80 0x5A) (withPassive [pEntry 0x71 0x5A 1 80])
    t.resp = { flag := true, entry := some (.passive (pEntry 0x71 0x5A 1 80)) } ∧ t.pb = [] ∧ t.events = [] := by
  decide

/-- R165 example. -/
theorem test_pbFind :
    (after (.pbFind 0x59) (withPassive [pEntry 1 0x59 1 80])).resp.flag = true ∧
    (after (.pbFind 0x58) (withPassive [pEntry 1 0x59 1 80])).resp.flag = false := by decide

/-- R166 example: strictly off by one, the first of two; and 255 does not match a stored 0 (R244). -/
theorem test_pbAlleq :
    let s := withPassive [pEntry 1 0x58 3 60, pEntry 2 0x58 3 62]
    (after (.pbAlleq 3 0x58 2 3 100 7 0) s).resp.flag = false ∧
    (after (.pbAlleq 2 0x58 2 3 100 7 0) s).pb = [pEntry 2 0x58 3 62] ∧
    (after (.pbAlleq 255 0x58 2 3 100 7 0) (withPassive [pEntry 1 0x58 0 60])).resp.flag = false := by decide

/-- R167 example. -/
theorem test_pbPurge :
    let t := after (.pbPurge 71) (withPassive [pEntry 1 0x59 1 70, pEntry 2 0x5A 1 80])
    t.resp = { val := 1 } ∧ t.events = [.drop .expired (pEntry 1 0x59 1 70)] ∧ t.pb = [pEntry 2 0x5A 1 80] := by
  decide

/-- R168 example. -/
theorem test_pbSize :
    (after (.pbSize 70) (withPassive [pEntry 1 0x59 1 70, pEntry 2 0x5A 1 80])).resp.val = 2 ∧
    (after (.pbSize 71) (withPassive [pEntry 1 0x59 1 70, pEntry 2 0x5A 1 80])).resp.val = 1 := by decide

/-- R169: the register only. -/
theorem test_pbSetmaxlen :
    (after (.pbSetmaxlen 2) State.reset).pbMaxLen = 2 ∧
    (after (.pbSetmaxlen 65) State.reset).resp.status = .errArg := by decide

/-- R170 example. -/
theorem test_pbSettimeout : (after (.pbSettimeout 0 50) State.reset).pbTimeout = 50 := by decide

/-- R171 example. -/
theorem test_pbDroplink :
    (after (.pbDroplink 0x99 0x58 2) State.reset).events = [.dropLink 0x99 2 0x58] := by decide

/-- R181 example: a full queue rejects the new entry. -/
theorem test_nqEnq :
    (after (.nqEnq 0 0xF1 0x58) State.reset).nq = [⟨0xF1, 0x58, 0⟩] ∧
    (after (.nqEnq 1 0xF2 0x59) { withQueue [⟨0xF1, 0x58, 0⟩] 10 with nqMaxSize := 1 }).resp = { flag := false } := by
  decide

/-- R182 example; R189 example: a shortened delay reaches stored entries. -/
theorem test_nqDeq :
    (after (.nqDeq 2) (withQueue [⟨0xF1, 0x58, 0⟩] 10)).resp =
      { flag := true, entry := some (.queue ⟨0xF1, 0x58, 0⟩) } ∧
    (after (.nqDeq 16) (withQueue [⟨0xF3, 0x58, 6⟩, ⟨0xF3, 0x58, 6⟩] 2)).resp = { flag := false } := by decide

/-- R183 example. -/
theorem test_nqFind :
    (after (.nqFind 0x59) (withQueue [⟨0xF1, 0x58, 0⟩, ⟨0xF2, 0x59, 5⟩] 0)).resp.flag = true ∧
    (after (.nqFind 0x5B) (withQueue [⟨0xF1, 0x58, 0⟩, ⟨0xF2, 0x59, 5⟩] 0)).resp.flag = false := by decide

/-- R184 example. -/
theorem test_nqFindpop :
    let t := after (.nqFindpop 0x58) (withQueue [⟨0xF1, 0x58, 0⟩, ⟨0xF2, 0x59, 5⟩, ⟨0xF3, 0x58, 6⟩] 0)
    t.resp = { flag := true, entry := some (.queue ⟨0xF1, 0x58, 0⟩) } ∧
      t.nq = [⟨0xF2, 0x59, 5⟩, ⟨0xF3, 0x58, 6⟩] := by decide

/-- R185 example. -/
theorem test_nqFlush :
    (after .nqFlush (withQueue [⟨1, 1, 1⟩, ⟨2, 2, 2⟩] 0)).resp.val = 2 ∧
    (after .nqFlush (withQueue [⟨1, 1, 1⟩] 0)).nq = [] := by decide

/-- R186 example. -/
theorem test_nqCleanup :
    (after (.nqCleanup 15) (withQueue [⟨0xF2, 0x59, 5⟩, ⟨0xF3, 0x58, 6⟩] 10)).resp.val = 0 ∧
    (after (.nqCleanup 16) (withQueue [⟨0xF2, 0x59, 5⟩, ⟨0xF3, 0x58, 6⟩] 10)).nq = [⟨0xF3, 0x58, 6⟩] := by decide

/-- R187 example. -/
theorem test_nqSize :
    (after (.nqSize 13) (withQueue [⟨0xF2, 0x59, 3⟩] 10)).resp.val = 1 ∧
    (after (.nqSize 14) (withQueue [⟨0xF2, 0x59, 3⟩] 10)).resp.val = 0 := by decide

/-- R188: 0 is legal. -/
theorem test_nqSetmaxsize :
    (after (.nqSetmaxsize 0) State.reset).nqMaxSize = 0 ∧
    (after (.nqSetmaxsize 65) State.reset).resp.status = .errArg := by decide

/-- R189 example. -/
theorem test_nqSetmaxdelay : (after (.nqSetmaxdelay 0 10) State.reset).nqMaxDelay = 10 := by decide

/-- R203: a halted block refuses before its own checks. -/
theorem test_halted :
    (after (.cfgGet 6) halted).resp = { status := .errHalted } ∧ (after .nqFlush halted).fault = true := by decide

/-! ## A concrete state and operands for the hypotheses of each statement, clause by clause, at the ends of
the ranges -/

/-- A state with an entry in every store, a stream, a header to come and a command presented. -/
def busy : State :=
  { wired with
    osb := option1
    mb := [mEntry 1 1 0x58 7 4 42]
    pb := [pEntry 1 0x58 3 60]
    nq := [⟨0xF1, 0x58, 0⟩]
    input := [encode (.mbSize 43)] }

/-- The smallest instance R1 allows. -/
def smallest : Params := { wbSize := 16, osbCap := 4, mbSlots := 1, pbSlots := 1, nqSlots := 1 }

/-- A state just before the end of WB: a header at 0x1FFF4 that declares 4 bytes, one at 0x1FFF8 that declares
1, one at 0x1FFF0 that declares 65535. -/
def brink : State :=
  { State.reset with
    wb := (Memory.putAll [] 0x1FFF4 [1, 2, 3, 4, 5, 6, 0, 4, 0, 0, 0, 1]) }

theorem witness_EncodeDecode : decode (encode (.mbDeq 103 0x59)) = .ok (.mbDeq 103 0x59) := by decide

theorem witness_StepRunsDecodedCommand :
    busy.input = encode (.mbSize 43) :: [] ∧ decode (encode (.mbSize 43)) = .ok (.mbSize 43) ∧
    State.reset.input = [] := by decide

theorem witness_IllegalDescriptorRefused :
    ({ halted with input := [0] } : State).input = 0 :: [] ∧
    (∀ row ∈ opcodeTable, (0 : Desc) &&& BitVec.ofNat 384 row.2.2 ≠ BitVec.ofNat 384 row.2.1) ∧
    (Fields.ofDesc (Fields.toDesc { op := 0x33 })).op.toNat ∈ [0x33, 0x35, 0x36, 0x37] ∧
    0x4C ≤ (Fields.ofDesc (Fields.toDesc { op := 0x4C })).op.toNat := by decide

theorem witness_EveryDescriptorHasOneOutcome :
    (stepped (State.reset.present 0)).resp.status ≠ .ok ∧
    (stepped (State.reset.present 0)).resp.status ≠ .faultWireBounds ∧
    (stepped (State.reset.present (encode (.hdrDeserialize 0x1FFF9)))).resp.status = .faultWireBounds := by decide

theorem witness_SysReset : halted.fault = true ∧ halted.params.wf := by decide

theorem witness_ResetStateValues : Params.default.wf ∧ smallest.wf ∧ busy.params.wf := by decide

theorem witness_InvKeptByStep : Inv busy ∧ step busy = .next (stepped busy) :=
  ⟨⟨by decide, by decide, by decide, by decide, by decide, by decide, by decide, by decide, by decide,
    by decide, by decide, by intro e he; rw [List.mem_singleton.mp he]; unfold deadlineInRange; decide,
    by intro e he; rw [List.mem_singleton.mp he]; unfold deadlineInRange; decide, by decide, by decide⟩, rfl⟩

theorem witness_CfgGet :
    busy.fault = false ∧ ((0 : Word).toNat, 64) ∈ selectorTable busy ∧ ((15 : Word).toNat, 8) ∈ selectorTable busy ∧
    (6 : Word).toNat ∉ [0, 1, 2, 3, 4, 5, 8, 9, 10, 11, 12, 13, 14, 15] ∧
    (16 : Word).toNat ∉ [0, 1, 2, 3, 4, 5, 8, 9, 10, 11, 12, 13, 14, 15] := by decide

theorem witness_WbWrite :
    busy.fault = false ∧ 255 < (256 : Word).toNat ∧
    ((255 : Word).toNat ≤ 255 ∧ busy.params.wbSize ≤ (131072 : Word).toNat) ∧
    ((255 : Word).toNat ≤ 255 ∧ (131071 : Word).toNat < busy.params.wbSize) := by decide

theorem witness_WbRead :
    busy.fault = false ∧ busy.params.wbSize ≤ (131072 : Word).toNat ∧
    (131071 : Word).toNat < busy.params.wbSize := by decide

theorem witness_HaltedRefusesAll : halted.fault = true ∧ runsHalted (.nqFlush) = false := by decide

theorem witness_RefusalChangesNothing :
    (after (.mbSetmaxlen 0) busy).resp.status ≠ .ok ∧
    (after (.mbSetmaxlen 0) busy).resp.status ≠ .faultWireBounds ∧
    (stepped (busy.present 0)).resp.status ≠ .ok ∧
    (stepped (busy.present 0)).resp.status ≠ .faultWireBounds := by decide

theorem witness_StatusFollowsCheckOrder :
    (halted.present 0).input = 0 :: [] ∧ decode 0 = .error (.unknownOpcode 0) ∧
    (halted.present (encode .ofSize)).input = encode .ofSize :: [] ∧ decode (encode .ofSize) = .ok .ofSize := by
  decide

theorem witness_FaultEffect :
    busy.fault = false ∧
    ((65535 : Word).toNat ≤ busy.params.osbCap ∧
      busy.params.wbSize < (65538 : Word).toNat + (65535 : Word).toNat) ∧
    busy.params.wbSize < (0x1FFF9 : Word).toNat + 8 ∧
    (declaredLen brink 0x1FFF4 ≤ brink.params.osbCap ∧
      ¬ brink.params.wbSize < 0x1FFF4 + 8 + declaredLen brink 0x1FFF4) ∧
    (after (.ofDeserialize 0x1FFFF 2) busy).resp.status = .faultWireBounds := by decide

/-- The declared stream is one byte too long. -/
theorem witness_FaultEffect_declared :
    let s := { State.reset with wb := Memory.putAll [] 0x1FFF8 [1, 2, 3, 4, 5, 6, 0, 1] }
    s.fault = false ∧ declaredLen s 0x1FFF8 ≤ s.params.osbCap ∧
      s.params.wbSize < 0x1FFF8 + 8 + declaredLen s 0x1FFF8 := by decide

theorem witness_FaultSticky :
    ({ halted with input := [0, encode .ofSize] } : State).fault = true ∧
    decode 0 ≠ .ok .sysReset ∧ decode (encode .ofSize) ≠ .ok .sysReset := by decide

theorem witness_CalcPad : busy.fault = false ∧ (0 : Byte) = 0 ∧ (1 : Byte) ≠ 0 ∧ (255 : Byte) ≠ 0 := by decide

/-- An instance whose stream buffer holds 12 bytes: 5 + pad 3 + 2 + 2 fits exactly, one more does not. -/
theorem witness_OfAppend :
    let s := { withStream option1 with params := { osbCap := 12 } }
    s.fault = false ∧ (4 : Byte) ≠ 0 ∧ (1 : Byte) = s.params.pad1Type ∧ (0 : Byte) = s.params.padNType ∧
    (2 : Byte) ≠ s.params.pad1Type ∧ (2 : Byte) ≠ s.params.padNType ∧
    s.params.wbSize < (131071 : Word).toNat + (2 : Byte).toNat ∧
    (131070 : Word).toNat + (2 : Byte).toNat ≤ s.params.wbSize ∧
    (3 < (4 : Byte).toNat ∧ (s.osb.length + 8 + 3) % (4 : Byte).toNat = (0 : Byte).toNat % (4 : Byte).toNat) ∧
    s.params.osbCap < s.osb.length + 3 + 2 + (3 : Byte).toNat ∧
    s.osb.length + 3 + 2 + (2 : Byte).toNat ≤ s.params.osbCap := by decide

theorem witness_AppendAlignment :
    wired.params.wf ∧ exec (.ofAppend 8 2 0x61 3 0x302) wired = .next (after (.ofAppend 8 2 0x61 3 0x302) wired) ∧
    (after (.ofAppend 8 2 0x61 3 0x302) wired).resp.status = .ok := ⟨by decide, rfl, by decide⟩

theorem witness_OfClearSize : busy.fault = false := by decide

theorem witness_OfSerialize :
    busy.fault = false ∧ busy.params.wbSize < (131065 : Word).toNat + roundUp4 busy.osb.length ∧
    (131064 : Word).toNat + roundUp4 busy.osb.length ≤ busy.params.wbSize := by decide

theorem witness_OfDeserialize :
    busy.fault = false ∧ busy.params.osbCap < (65536 : Word).toNat ∧ (65535 : Word).toNat ≤ busy.params.osbCap ∧
    busy.params.wbSize < (65538 : Word).toNat + (65535 : Word).toNat ∧
    (65537 : Word).toNat + (65535 : Word).toNat ≤ busy.params.wbSize := by decide

theorem witness_OfRead :
    busy.fault = false ∧ busy.osb.length ≤ (5 : Word).toNat ∧ busy.osb[(4 : Word).toNat]? = some 0xCC := by decide

/-- A Pad1, an option that ends exactly at the end, one whose payload and one whose length byte is missing. -/
theorem witness_OptDecode :
    let s := withStream [1, 0x60, 1, 0xAA, 0x61, 1, 0x62]
    s.fault = false ∧ s.osb.length ≤ (7 : Word).toNat ∧ s.osb[(0 : Word).toNat]? = some s.params.pad1Type ∧
    (s.osb[(6 : Word).toNat]? = some 0x62 ∧ s.osb.length ≤ (6 : Word).toNat + 1) ∧
    (s.osb[(1 : Word).toNat]? = some 0x60 ∧ s.osb[(1 : Word).toNat + 1]? = some 1 ∧
      (1 : Word).toNat + 2 + (1 : Byte).toNat ≤ s.osb.length) ∧
    (s.osb[(4 : Word).toNat]? = some 0x61 ∧ s.osb[(4 : Word).toNat + 1]? = some 1 ∧
      (4 : Word).toNat + 2 + (1 : Byte).toNat ≤ s.osb.length) ∧
    (s.osb[(5 : Word).toNat]? = some 1) ∧ (0x60 : Byte) ≠ s.params.pad1Type := by decide

/-- The option's payload is one byte short. -/
theorem witness_OptDecode_truncated :
    let s := withStream [0x60, 2, 0xAA]
    s.osb[(0 : Word).toNat]? = some 0x60 ∧ s.osb[(0 : Word).toNat + 1]? = some 2 ∧
      s.osb.length < (0 : Word).toNat + 2 + (2 : Byte).toNat := by decide

theorem witness_AppendThenDecode :
    wired.params.wf ∧ exec (.ofAppend 8 2 0x61 3 0x302) wired = .next (after (.ofAppend 8 2 0x61 3 0x302) wired) ∧
    (after (.ofAppend 8 2 0x61 3 0x302) wired).resp.status = .ok ∧
    (after (.ofAppend 8 2 0x61 3 0x302) wired).resp.val = (2 : Word).setWidth 64 :=
  ⟨by decide, rfl, by decide, by decide⟩

theorem witness_HdrSetGet : busy.fault = false := by decide

theorem witness_HdrSize : busy.fault = false := by decide

theorem witness_HdrSerialize :
    busy.fault = false ∧ busy.params.wbSize < (131057 : Word).toNat + (8 + roundUp4 busy.osb.length) ∧
    (131056 : Word).toNat + (8 + roundUp4 busy.osb.length) ≤ busy.params.wbSize := by decide

/-- The 8 bytes do not fit; the declared stream ends exactly at the end of WB. The
clause of the declared stream that does not fit: `witness_FaultEffect_declared`. -/
theorem witness_HdrDeserialize :
    brink.fault = false ∧ brink.params.wbSize < (0x1FFF9 : Word).toNat + 8 ∧
    ((0x1FFF4 : Word).toNat + 8 ≤ brink.params.wbSize ∧
      declaredLen brink (0x1FFF4 : Word).toNat ≤ brink.params.osbCap ∧
      (0x1FFF4 : Word).toNat + 8 + declaredLen brink (0x1FFF4 : Word).toNat ≤ brink.params.wbSize) := by decide

/-- ERR_OVERFLOW: the header declares one byte more than OSB_CAP, on the smallest instance. -/
theorem witness_HdrDeserialize_overflow :
    let s := { State.reset with params := smallest, wb := Memory.putAll [] 8 [1, 2, 3, 4, 5, 6, 0, 5] }
    s.fault = false ∧ 8 + 8 ≤ s.params.wbSize ∧ s.params.osbCap < declaredLen s 8 := by decide

/-- The header and the stream of R81's first option at the last address that fits. -/
theorem witness_HeaderRoundTrip :
    let s := { withStream option1 with hdr := ⟨0x11, 0x02, 0x0A0B, 0x0C0D, 8⟩ }
    let t := after (.hdrSerialize 131056) s
    s.fault = false ∧ s.hdr.payloadLen.toNat = roundUp4 s.osb.length ∧
      roundUp4 s.osb.length ≤ s.params.osbCap ∧
      (131056 : Word).toNat + (8 + roundUp4 s.osb.length) ≤ s.params.wbSize ∧
      (after .ofClear t).fault = false ∧ (after .ofClear t).params = s.params ∧
      wireBytes (after .ofClear t) 131056 16 = wireBytes t 131056 16 ∧
      (0 : Word).toNat + (8 + roundUp4 s.osb.length) ≤ s.params.wbSize := by decide

/-- An entry whose deadline is `now` is live and blocks its duplicate; room for one more; at the bound. -/
theorem witness_MbEnq :
    let full := { busy with mbMaxLen := 1 }
    busy.fault = false ∧ full.fault = false ∧ ¬ (0x8000000000000000 : Dword).toNat < 2 ^ 63 ∧
    (0x7FFFFFFFFFFFFFFF : Dword).toNat < 2 ^ 63 ∧ (42 : Dword).toNat < 2 ^ 63 ∧
    mbLiveAt busy 42 = [mEntry 1 1 0x58 7 4 42] ∧
    (mEntry 1 1 0x58 7 4 42).allEqual (mEntry 9 1 0x58 7 4 42) = true ∧
    (mEntry 1 1 0x58 7 4 42).allEqual (mEntry 9 1 0x58 7 5 42) = false ∧
    (mbLiveAt busy 42).length < busy.mbMaxLen.toNat ∧ full.mbMaxLen.toNat ≤ (mbLiveAt full 42).length := by decide

theorem witness_MbDeq :
    busy.fault = false ∧ ¬ (0x8000000000000000 : Dword).toNat < 2 ^ 63 ∧ (42 : Dword).toNat < 2 ^ 63 ∧
    FirstMatch (fun x : MaintEntry => x.nhop = 0x58) (mbLiveAt busy 42) (mEntry 1 1 0x58 7 4 42) [] ∧
    (∀ e ∈ mbLiveAt busy 43, e.nhop ≠ 0x58) :=
  ⟨by decide, by decide, by decide, ⟨[], [], by decide, by decide, by decide, by decide⟩, by decide⟩

theorem witness_FindIsMembership :
    busy.fault = false ∧ (∃ e ∈ busy.mb, e.nhop = 0x58) ∧ (∀ e ∈ busy.mb, e.nhop ≠ 0x59) ∧
    (∃ e ∈ busy.pb, lookupField busy.params e = 0x58) ∧ (∀ e ∈ busy.pb, lookupField busy.params e ≠ 0x59) ∧
    (∃ e ∈ busy.nq, e.nhop = 0x58) ∧ (∀ e ∈ busy.nq, e.nhop ≠ 0x59) := by decide

theorem witness_MbDropnh :
    busy.fault = false ∧ ¬ (0x8000000000000000 : Dword).toNat < 2 ^ 63 ∧ (42 : Dword).toNat < 2 ^ 63 ∧
    1 = ((mbLiveAt busy 42).filter fun e => e.nhop == 0x58).length ∧
    0 = ((mbLiveAt busy 43).filter fun e => e.nhop == 0x58).length := by decide

/-- Each predicate's keys, met by the only entry, and missed by one field. -/
theorem witness_MbPredicates :
    busy.fault = false ∧
    FirstMatch (fun e : MaintEntry => e.our = 1 ∧ e.nhop = 0x58 ∧ e.src = 2 ∧ e.dst = 3 ∧ e.ack = 7 ∧ e.seg = 4)
      busy.mb (mEntry 1 1 0x58 7 4 42) [] ∧
    FirstMatch (fun e : MaintEntry => e.our = 1 ∧ e.nhop = 0x58 ∧ e.src = 2 ∧ e.dst = 3 ∧ e.ack = 7)
      busy.mb (mEntry 1 1 0x58 7 4 42) [] ∧
    FirstMatch (fun e : MaintEntry => e.src = 2 ∧ e.dst = 3 ∧ e.seg = 4 ∧ e.ack = 7)
      busy.mb (mEntry 1 1 0x58 7 4 42) [] ∧
    FirstMatch (fun e : MaintEntry => e.src = 2 ∧ e.dst = 3 ∧ e.our = 1 ∧ e.nhop = 0x58)
      busy.mb (mEntry 1 1 0x58 7 4 42) [] ∧
    (∀ e ∈ busy.mb, e.src ≠ 4) :=
  ⟨by decide, ⟨[], [], by decide, by decide, by decide, by decide⟩,
    ⟨[], [], by decide, by decide, by decide, by decide⟩, ⟨[], [], by decide, by decide, by decide, by decide⟩,
    ⟨[], [], by decide, by decide, by decide, by decide⟩, by decide⟩

theorem witness_MbPurgeSize :
    busy.fault = false ∧ ¬ (0x8000000000000000 : Dword).toNat < 2 ^ 63 ∧
    (0x7FFFFFFFFFFFFFFF : Dword).toNat < 2 ^ 63 ∧ (mbLiveAt busy 42).length = 1 ∧
    (mbLiveAt busy 43).length = 0 := by decide

theorem witness_BoundSetters :
    busy.fault = false ∧ (1 ≤ (1 : Word).toNat ∧ (1 : Word).toNat ≤ busy.params.mbSlots) ∧
    (1 ≤ (64 : Word).toNat ∧ (64 : Word).toNat ≤ busy.params.pbSlots) ∧ (0 : Word).toNat = 0 ∧
    busy.params.mbSlots < (65 : Word).toNat ∧ busy.params.pbSlots < (65 : Word).toNat ∧
    (0 : Word).toNat ≤ busy.params.nqSlots ∧ (64 : Word).toNat ≤ busy.params.nqSlots ∧
    busy.params.nqSlots < (65 : Word).toNat := by decide

theorem witness_DurationSetters : busy.fault = false := by decide

/-- An entry whose deadline is `now` is live; its packet one hop on, the same packet again with and without
PB_EXACT_DUP_REJECT; room for one more; at the bound. -/
theorem witness_PbEnq :
    let full := { busy with pbMaxLen := 1 }
    busy.fault = false ∧ full.fault = false ∧ ¬ (0x8000000000000000 : Dword).toNat < 2 ^ 63 ∧
    (60 : Dword).toNat < 2 ^ 63 ∧ pbLiveAt busy 60 = pEntry 1 0x58 3 60 :: [] ∧
    (pEntry 1 0x58 3 60).duplicates false (pEntry 2 0x58 2 60) = true ∧
    (pEntry 1 0x58 3 60).duplicates false (pEntry 2 0x58 3 60) = false ∧
    (pEntry 1 0x58 3 60).duplicates true (pEntry 2 0x58 3 60) = true ∧
    (pEntry 1 0x58 3 60).duplicates true (pEntry 2 0x58 4 60) = false ∧
    (pbLiveAt busy 60).length < busy.pbMaxLen.toNat ∧ full.pbMaxLen.toNat ≤ ([] : List PassiveEntry).length + 1 := by
  decide

theorem witness_PbDeq :
    busy.fault = false ∧ ¬ (0x8000000000000000 : Dword).toNat < 2 ^ 63 ∧ (60 : Dword).toNat < 2 ^ 63 ∧
    FirstMatch (fun x => lookupField busy.params x = 0x58) (pbLiveAt busy 60) (pEntry 1 0x58 3 60) [] ∧
    (∀ e ∈ pbLiveAt busy 61, lookupField busy.params e ≠ 0x58) :=
  ⟨by decide, by decide, by decide, ⟨[], [], by decide, by decide, by decide, by decide⟩, by decide⟩

/-- The stored entry has segmentsLeft 3: a candidate with 2 matches it, one with 3 does not. -/
theorem witness_PbAlleq :
    busy.fault = false ∧
    FirstMatch (fun e : PassiveEntry => e.pid = 100 ∧ e.src = 2 ∧ e.dst = 3 ∧ e.nhop = 0x58 ∧ e.ident = 7 ∧
      e.foff = 0 ∧ e.seg.toNat = (2 : Byte).toNat + 1) busy.pb (pEntry 1 0x58 3 60) [] ∧
    (∀ e ∈ busy.pb, ¬ e.seg.toNat = (3 : Byte).toNat + 1) :=
  ⟨by decide, ⟨[], [], by decide, by decide, by decide, by decide⟩, by decide⟩

theorem witness_PbPurgeSize :
    busy.fault = false ∧ ¬ (0x8000000000000000 : Dword).toNat < 2 ^ 63 ∧ (61 : Dword).toNat < 2 ^ 63 ∧
    (pbLiveAt busy 60).length = 1 ∧ (pbDropsAt busy 61).length = 1 := by decide

theorem witness_PbDroplink : busy.fault = false := by decide

theorem witness_NqEnq :
    let full := { busy with nqMaxSize := 1 }
    busy.fault = false ∧ full.fault = false ∧ ¬ (0x8000000000000000 : Dword).toNat < 2 ^ 63 ∧
    (0x7FFFFFFFFFFFFFFF : Dword).toNat < 2 ^ 63 ∧ full.nqMaxSize.toNat ≤ full.nq.length ∧
    busy.nq.length < busy.nqMaxSize.toNat := by decide

theorem witness_NqDeq :
    busy.fault = false ∧ ¬ (0x8000000000000000 : Dword).toNat < 2 ^ 63 ∧ (0 : Dword).toNat < 2 ^ 63 ∧
    nqLiveAt busy 1 = [] ∧ nqLiveAt busy 0 = ⟨0xF1, 0x58, 0⟩ :: [] := by decide

theorem witness_NqFindpop :
    busy.fault = false ∧ FirstMatch (fun x : QueueEntry => x.nhop = 0x58) busy.nq ⟨0xF1, 0x58, 0⟩ [] ∧
    (∀ e ∈ busy.nq, e.nhop ≠ 0x59) :=
  ⟨by decide, ⟨[], [], by decide, by decide, by decide, by decide⟩, by decide⟩

theorem witness_NqFlush : busy.fault = false := by decide

theorem witness_NqCleanupSize :
    busy.fault = false ∧ ¬ (0x8000000000000000 : Dword).toNat < 2 ^ 63 ∧ (1 : Dword).toNat < 2 ^ 63 ∧
    (nqLiveAt busy 0).length = 1 ∧ (nqLiveAt busy 1).length = 0 := by decide

theorem witness_PartsWrittenOnlyBy :
    exec (.mbSize 43) busy = .next (after (.mbSize 43) busy) ∧ (after (.mbSize 43) busy).mb ≠ busy.mb :=
  ⟨rfl, by decide⟩

/-- An event of each kind is emitted somewhere. -/
theorem witness_EventSources :
    (after (.mbSetmaxlen 0) busy).resp.status ≠ .ok ∧
    Event.drop .expired (pEntry 1 0x58 3 60) ∈ (after (.pbSize 61) busy).events ∧
    Event.drop .capacity (pEntry 1 0x58 3 60) ∈
      (after (.pbEnq 3 60 2 0x59 2 3 100 7 0) { busy with pbMaxLen := 1 }).events ∧
    Event.dropLink 0x99 2 0x58 ∈ (after (.pbDroplink 0x99 0x58 2) busy).events := by decide

/-- Each of the four commands hands an entry over somewhere. -/
theorem witness_EntryPresentExactly :
    (after (.mbDeq 42 0x58) busy).resp.entry = some (.maint (mEntry 1 1 0x58 7 4 42)) ∧
    (after (.pbDeq 60 0x58) busy).resp.entry = some (.passive (pEntry 1 0x58 3 60)) ∧
    (after (.nqDeq 0) busy).resp.entry = some (.queue ⟨0xF1, 0x58, 0⟩) ∧
    (after (.nqFindpop 0x58) busy).resp.entry = some (.queue ⟨0xF1, 0x58, 0⟩) := by decide

/-- An enqueue adds its entry behind the old one. -/
theorem witness_StoresKeepOrder :
    exec (.mbEnq 1 42 9 1 1 1 1 1) busy = .next (after (.mbEnq 1 42 9 1 1 1 1 1) busy) ∧
    (after (.mbEnq 1 42 9 1 1 1 1 1) busy).mb.length = 2 := ⟨rfl, by decide⟩

/-- Two entries under the bound 1, the first of which lives until the second arrives and no longer. -/
theorem witness_MbCapacityEviction :
    let s := { State.reset with mbMaxLen := 1, mbTimeout := 1 }
    let c : MbCandidate := ⟨4, 100, 0xA, 1, 0x58, 2, 3, 7⟩
    let c' : MbCandidate := ⟨4, 101, 0xB, 1, 0x59, 2, 3, 7⟩
    s.fault = false ∧ s.mb = [] ∧ 1 ≤ s.mbMaxLen.toNat ∧ c.now.toNat < 2 ^ 63 ∧ c'.now.toNat < 2 ^ 63 ∧
      (c.stored s.mbTimeout).nhop ≠ (c'.stored s.mbTimeout).nhop ∧
      (c'.now.toNat : Int) ≤ (c.now.toNat : Int) + s.mbTimeout.toInt ∧
      (c.now.toNat : Int) ≤ (c'.now.toNat : Int) + s.mbTimeout.toInt ∧
      (after c'.command (after c.command s)).mb = [c'.stored s.mbTimeout] := by decide

theorem witness_PassiveAccounted :
    exec (.pbAlleq 2 0x58 2 3 100 7 0) busy = .next (after (.pbAlleq 2 0x58 2 3 100 7 0) busy) ∧
    (after (.pbAlleq 2 0x58 2 3 100 7 0) busy).pb = [] := ⟨rfl, by decide⟩

/-- Exactly at the bound of 1, and a bound lowered to exactly the length. -/
theorem witness_StepIsFunctionOfBlock :
    (busy.present 0).input = 0 :: busy.input ∧ (stepped (busy.present 0)).resp.status = .errIllegal ∧
    (stepped (busy.present (encode (.hdrDeserialize 0x1FFF9)))).resp.status = .faultWireBounds := by decide

theorem witness_LengthWithinBound :
    let s := { busy with mbMaxLen := 1, pbMaxLen := 1, nqMaxSize := 1 }
    s.mb.length ≤ s.mbMaxLen.toNat ∧ s.pb.length ≤ s.pbMaxLen.toNat ∧ s.nq.length ≤ s.nqMaxSize.toNat ∧
      busy.mb.length ≤ (1 : Word).toNat ∧ exec (.mbSetmaxlen 1) busy = .next (after (.mbSetmaxlen 1) busy) :=
  ⟨by decide, by decide, by decide, by decide, rfl⟩

end Sys2Proof.Tests
end

/-!
The statements of 00_scope.md: a step runs the decoded command, every descriptor has one outcome, and that
outcome depends on the parameters, the block's own state and the descriptor alone (R2, R3).
-/

namespace Sys2Proof

/-- The decoder gives back the command that was encoded (30_encoding.md R84). -/
theorem decode_encode (i : Instr) : decode (encode i) = .ok i := by
  rw [encode, decode_toDesc]
  cases i <;> exact Fields.selects_eq_ok.mpr ⟨rfl, rfl⟩

end Sys2Proof

namespace Sys2Proof.Machine

/-! ## A step on a presented descriptor -/

/-- A state whose next descriptor is `d` is the state with `d` taken away, to which the host presents `d`. -/
theorem State.present_of_input {s : State} {d : Desc} {rest : List Desc} (h : s.input = d :: rest) :
    State.present { s with input := rest } d = s := by
  simp [State.present, ← h]

/-- The table number of a descriptor presents that descriptor. -/
theorem State.withFetchWord_toNat (s : State) (d : Desc) : s.withFetchWord 384 d.toNat = s.present d := by
  rw [State.withFetchWord, Nat.mod_eq_of_lt d.isLt, BitVec.ofNat_toNat, BitVec.setWidth_eq]

theorem step_present_of_ok {d : Desc} {i : Instr} (h : decode d = .ok i) (s : State) :
    step (s.present d) = exec i s := by
  simp [step, h]

theorem step_present_of_error {d : Desc} {e : DecodeError} (h : decode d = .error e) (s : State) :
    step (s.present d) = .next (s.reply { status := .errIllegal } []) := by
  simp [step, h, State.refuseIllegal, complete]

theorem step_of_input_nil {s : State} (h : s.input = []) : step s = .next s := by
  simp [step, State.accept_nil h, complete]

/-- Every descriptor in every state has an outcome (R3). -/
theorem step_present_total (s : State) (d : Desc) : ∃ t, step (s.present d) = .next t := by
  cases hd : decode d with
  | ok i => rw [step_present_of_ok hd]; exact exec_total i s
  | error e => exact ⟨_, step_present_of_error hd s⟩

/-- The three outcomes of `exec_outcome`, for every descriptor, an illegal one included. -/
theorem step_present_outcome {s t : State} {d : Desc} (h : step (s.present d) = .next t) :
    t.resp.status = .ok ∨
    (∃ st, st.isFault = false ∧ t = s.reply { status := st } []) ∨
    (∃ a, t = s.raiseWireBounds a) := by
  cases hd : decode d with
  | ok i =>
    rw [step_present_of_ok hd] at h
    rcases exec_outcome h with hok | ⟨st, hst, -, ht⟩ | ⟨-, a, -, ht⟩
    · exact .inl hok
    · exact .inr (.inl ⟨st, hst, ht⟩)
    · exact .inr (.inr ⟨a, ht⟩)
  | error e =>
    rw [step_present_of_error hd] at h
    cases h
    exact .inr (.inl ⟨.errIllegal, rfl, rfl⟩)

theorem Status.ne_faultWireBounds {st : Status} (h : st.isFault = false) : st ≠ .faultWireBounds := by
  rintro rfl
  exact absurd h (by decide)

/-! ## The host's side does not matter

`s.onHost h` is the block of `s` with another host's side `h`. A command does to it what it does to `s`: the
outcome is the same but for the descriptors still to come, which stay those of `h`. -/

/-- The same block and parameters under another host's side. -/
def State.onHost (s : State) (h : HostSide) : State := { s with toHostSide := h }

/-- The block, response and events of `t`, with the waiting descriptors and the parameters of `s`. -/
def State.returnTo (t s : State) : State := { t with input := s.input, params := s.params }

@[simp] theorem State.onHost_osb (s : State) (h : HostSide) : (s.onHost h).osb = s.osb := rfl
@[simp] theorem State.onHost_mb (s : State) (h : HostSide) : (s.onHost h).mb = s.mb := rfl
@[simp] theorem State.onHost_pb (s : State) (h : HostSide) : (s.onHost h).pb = s.pb := rfl
@[simp] theorem State.onHost_nq (s : State) (h : HostSide) : (s.onHost h).nq = s.nq := rfl
@[simp] theorem State.onHost_params (s : State) (h : HostSide) : (s.onHost h).params = s.params := rfl
@[simp] theorem State.onHost_config (s : State) (h : HostSide) (sel : Nat) :
    (s.onHost h).config sel = s.config sel := rfl
@[simp] theorem State.returnTo_input (t s : State) : (t.returnTo s).input = s.input := rfl

/-- A test on the block goes the same way under both hosts, so its two branches may be compared one by one. -/
theorem ite_eq_returnTo {c : Prop} [Decidable c] {s a b a' b' : State} (ha : a' = a.returnTo s)
    (hb : b' = b.returnTo s) : (if c then a' else b') = (if c then a else b).returnTo s := by
  split <;> assumption

theorem mbAdmit_onHost (s : State) (c : MaintEntry) (h : HostSide) :
    (s.onHost h).mbAdmit c = (s.mbAdmit c).returnTo (s.onHost h) :=
  ite_eq_returnTo rfl rfl

theorem mbTake_onHost (s : State) (nhop : Word) (h : HostSide) :
    (s.onHost h).mbTake nhop = (s.mbTake nhop).returnTo (s.onHost h) := by
  simp only [State.mbTake, State.onHost_mb]
  split <;> rfl

theorem mbConsume_onHost (s : State) (p : MaintEntry → Bool) (h : HostSide) :
    (s.onHost h).mbConsume p = (s.mbConsume p).returnTo (s.onHost h) :=
  ite_eq_returnTo rfl rfl

theorem pbAdmit_onHost (s : State) (c : PassiveEntry) (evs : List Event) (h : HostSide) :
    (s.onHost h).pbAdmit c evs = (s.pbAdmit c evs).returnTo (s.onHost h) :=
  ite_eq_returnTo rfl rfl

theorem pbTake_onHost (s : State) (key : Word) (evs : List Event) (h : HostSide) :
    (s.onHost h).pbTake key evs = (s.pbTake key evs).returnTo (s.onHost h) := by
  simp only [State.pbTake, State.onHost_pb, State.onHost_params]
  split <;> rfl

theorem pbConsume_onHost (s : State) (p : PassiveEntry → Bool) (h : HostSide) :
    (s.onHost h).pbConsume p = (s.pbConsume p).returnTo (s.onHost h) :=
  ite_eq_returnTo rfl rfl

theorem nqPop_onHost (s : State) (h : HostSide) : (s.onHost h).nqPop = s.nqPop.returnTo (s.onHost h) := by
  simp only [State.nqPop, State.onHost_nq]
  split <;> rfl

/-- No command reads the earlier response, the earlier events or the later descriptors, and none changes the
later descriptors or the parameters (R3, 10_state.md R29). -/
theorem exec_onHost {i : Instr} {s t : State} (h : exec i s = .next t) (host : HostSide) :
    exec i (s.onHost host) = .next (t.returnTo (s.onHost host)) := by
  cases i
  case sysReset => cases h; rfl
  case sysStatus => cases h; rfl
  all_goals
    rcases unlessHalted_cases h with ⟨hf, rfl⟩ | ⟨hf, rfl⟩
    · exact unlessHalted_halted (s := s.onHost host) hf _
    refine (unlessHalted_running (s := s.onHost host) hf _).trans (congrArg Host.Outcome.next ?_)
  case ofClear | ofSize | hdrSet | hdrGet | hdrSize | mbFind | mbSettimeout | pbFind | pbSettimeout |
      pbDroplink | nqFind | nqFlush | nqSetmaxdelay =>
    rfl
  case cfgGet => simp only [State.onHost_config]; split <;> rfl
  case ofRead => simp only [State.onHost_osb]; split <;> rfl
  case nqFindpop => simp only [State.onHost_nq]; split <;> rfl
  case wbWrite =>
    split
    · rfl
    · exact ite_eq_returnTo rfl rfl
  case optDecode =>
    simp only [State.onHost_osb]
    split
    · rfl
    · refine ite_eq_returnTo rfl ?_
      split
      · rfl
      · exact ite_eq_returnTo rfl rfl
  case ofAppend =>
    exact ite_eq_returnTo rfl (ite_eq_returnTo rfl (ite_eq_returnTo rfl (ite_eq_returnTo rfl rfl)))
  case ofDeserialize => exact ite_eq_returnTo rfl (ite_eq_returnTo rfl rfl)
  case hdrDeserialize => exact ite_eq_returnTo rfl (ite_eq_returnTo rfl (ite_eq_returnTo rfl rfl))
  case mbEnq now _ _ _ _ _ _ => exact ite_eq_returnTo (mbAdmit_onHost (s.mbPurge now) _ host) rfl
  case mbDeq now _ => exact ite_eq_returnTo (mbTake_onHost (s.mbPurge now) _ host) rfl
  case mbAlleq | mbNeteq | mbPromeq | mbLinkeq => exact mbConsume_onHost s _ host
  case pbEnq now _ _ _ _ _ _ _ => exact ite_eq_returnTo (pbAdmit_onHost (s.pbPurge now) _ _ host) rfl
  case pbDeq now _ => exact ite_eq_returnTo (pbTake_onHost (s.pbPurge now) _ _ host) rfl
  case pbAlleq => exact pbConsume_onHost s _ host
  case nqEnq => exact ite_eq_returnTo (ite_eq_returnTo rfl rfl) rfl
  case nqDeq now => exact ite_eq_returnTo (nqPop_onHost (s.nqCleanup now) host) rfl
  all_goals exact ite_eq_returnTo rfl rfl

/-- `exec_onHost` for a whole step, an illegal descriptor included. -/
theorem step_present_onHost {s t : State} {d : Desc} (h : step (s.present d) = .next t) (host : HostSide) :
    step ((s.onHost host).present d) = .next (t.returnTo (s.onHost host)) := by
  cases hd : decode d with
  | ok i =>
    rw [step_present_of_ok hd] at h ⊢
    exact exec_onHost h host
  | error e =>
    rw [step_present_of_error hd] at h ⊢
    cases h
    rfl

/-- A step takes one descriptor and leaves the later ones alone. -/
theorem step_present_input {s t : State} {d : Desc} (h : step (s.present d) = .next t) : t.input = s.input := by
  have ht : t = t.returnTo s := Host.Outcome.next.inj (h.symm.trans (step_present_onHost h s.toHostSide))
  rw [ht, State.returnTo_input]

/-! ## The step as a function of R3's shape -/

/-- The block before its host has presented anything to it or taken anything from it. -/
def State.alone (p : Params) (b : Block) : State := { State.powerOn p with toBlock := b }

/-- R3's function: parameters, block and descriptor to block, response and events. -/
def blockStep (p : Params) (b : Block) (d : Desc) : Block × Response × List Event :=
  match step ((State.alone p b).present d) with
  | .next t => (t.toBlock, t.resp, t.events)
  | .fault _ => (b, {}, [])
  | .refused _ => (b, {}, [])

/-- `blockStep` reads off the outcome of a step. -/
theorem exists_step_alone {p : Params} {b b' : Block} {d : Desc} {r : Response} {evs : List Event}
    (h : blockStep p b d = (b', r, evs)) :
    ∃ t, step ((State.alone p b).present d) = .next t ∧ t.toBlock = b' ∧ t.resp = r ∧ t.events = evs := by
  obtain ⟨t, ht⟩ := step_present_total (State.alone p b) d
  simp only [blockStep, ht, Prod.mk.injEq] at h
  exact ⟨t, ht, h⟩

/-- Every step with a descriptor presented is `blockStep`, whatever the host's side holds. -/
theorem step_eq_blockStep {s : State} {d : Desc} {rest : List Desc} (hs : s.input = d :: rest)
    {b : Block} {r : Response} {evs : List Event} (h : blockStep s.params s.toBlock d = (b, r, evs)) :
    step s = .next { toBlock := b, input := rest, resp := r, events := evs, params := s.params } := by
  obtain ⟨t, ht, rfl, rfl, rfl⟩ := exists_step_alone h
  have hstep := step_present_onHost ht { s.toHostSide with input := rest }
  rw [← State.present_of_input hs]
  exact hstep

/-- A status other than OK: the block is as before, but for the status registers under the fault (R204,
R207). -/
theorem blockStep_frame {p : Params} {b b' : Block} {d : Desc} {r : Response} {evs : List Event}
    (h : blockStep p b d = (b', r, evs)) (hr : r.status ≠ .ok) :
    if r.status = .faultWireBounds
    then b' = { b with fault := b'.fault, fcause := b'.fcause, finfo := b'.finfo } else b' = b := by
  obtain ⟨t, ht, rfl, rfl, rfl⟩ := exists_step_alone h
  rcases step_present_outcome ht with hok | ⟨st, hst, rfl⟩ | ⟨a, rfl⟩
  · exact absurd hok hr
  · rw [State.reply_resp, if_neg (Status.ne_faultWireBounds hst)]
    rfl
  · rw [State.raiseWireBounds_resp, if_pos rfl]
    rfl

end Sys2Proof.Machine

namespace Sys2Proof.Proofs

open Sys2Proof.Machine

/-- Settles O7: `step_present_total` gives the outcome, `step_present_outcome` its frame. -/
theorem everyDescriptorHasOneOutcome : Obligations.EveryDescriptorHasOneOutcome := by
  intro s d
  obtain ⟨t, ht⟩ := step_present_total s d
  refine ⟨t, ht, step_present_input ht, fun hok hfault => ?_, fun hfault => ?_⟩
  · rcases step_present_outcome ht with h | ⟨st, -, rfl⟩ | ⟨a, rfl⟩
    · exact absurd h hok
    · exact frame_reply [] s _ _
    · exact absurd rfl hfault
  · rcases step_present_outcome ht with h | ⟨st, hst, rfl⟩ | ⟨a, rfl⟩
    · exact absurd (h.symm.trans hfault) (by decide)
    · exact absurd hfault (Status.ne_faultWireBounds hst)
    · exact frame_raiseWireBounds s a

/-- Settles O60 with `blockStep` as the function. -/
theorem stepIsFunctionOfBlock : Obligations.StepIsFunctionOfBlock :=
  ⟨blockStep, fun _ _ _ hs _ _ _ h => step_eq_blockStep hs h, fun _ _ _ _ _ _ h hr => blockStep_frame h hr⟩

/-- Settles O5: by what `step` does on a presented descriptor, and `decode_encode` for an encoded command. -/
theorem stepRunsDecodedCommand : Obligations.StepRunsDecodedCommand := by
  intro s
  refine ⟨fun d rest i hs hd => ?_, step_of_input_nil, fun i => ?_⟩
  · rw [← step_present_of_ok hd, State.present_of_input hs]
  · rw [State.withFetchWord_toNat, step_present_of_ok (decode_encode i)]

end Sys2Proof.Proofs

/-!
The statements of 10_state.md: which command may change which piece of state, what the two resets leave, and
the invariant, which holds at power-on and is kept by every step.
-/

namespace Sys2Proof.Machine

open Sys2Proof.Spec

/-! ## The frame of every command -/

/-- Both ways a test can go leave the same pieces alone. -/
theorem frame_ite {c : Prop} [Decidable c] {l : List Part} {s a b : State} (ha : Frame l s a)
    (hb : Frame l s b) : Frame l s (if c then a else b) := by
  split <;> assumption

/-- A command whose outcomes all have the frame `l` has it, since the refusal of a halted block has any. -/
theorem frame_unlessHalted {l : List Part} {s k t : State} (h : s.unlessHalted k = .next t)
    (hk : Frame l s k) : Frame l s t := by
  rcases unlessHalted_cases h with ⟨-, rfl⟩ | ⟨-, rfl⟩
  · exact frame_reply l s _ _
  · exact hk

/-- A byte sequence is written and the command replies. -/
theorem frame_store (s : State) (a : Nat) (bs : List Byte) (r : Response) :
    Frame [.wire] s ((s.memWrite a bs).reply r) :=
  (frame_memWrite s a bs).trans (frame_reply _ _ _ _)

/-- What a command may write, and nothing else, differs after it (10_state.md R10 to R27). -/
theorem exec_frame {i : Instr} {s t : State} (h : exec i s = .next t) : Frame (mayWrite i) s t := by
  cases i
  case sysReset => cases h; exact (frame_resetExceptWire s).trans (frame_reply _ _ _ _)
  case sysStatus => cases h; exact frame_reply _ _ _ _
  all_goals refine frame_unlessHalted h ?_
  case ofCalcpad | wbRead => exact frame_ite (frame_reply _ _ _ _) (frame_reply _ _ _ _)
  case ofSize | hdrGet | hdrSize | mbFind | pbFind | pbDroplink | nqFind => exact frame_reply _ _ _ _
  case cfgGet | ofRead => split <;> exact frame_reply _ _ _ _
  case optDecode => (repeat' split) <;> exact frame_reply _ _ _ _
  case wbWrite =>
    split
    · exact frame_reply _ _ _ _
    · exact frame_ite (frame_store _ _ _ _) (frame_reply _ _ _ _)
  case ofSerialize | hdrSerialize => exact frame_ite (frame_store _ _ _ _) (frame_reply _ _ _ _)
  case ofClear => exact frame_setStream _ _ _ _
  case ofAppend =>
    exact frame_ite (frame_reply _ _ _ _) (frame_ite (frame_reply _ _ _ _)
      (frame_ite (frame_reply _ _ _ _) (frame_ite (frame_reply _ _ _ _) (frame_setStream _ _ _ _))))
  case ofDeserialize =>
    exact frame_ite (frame_reply _ _ _ _) (frame_ite ((frame_setStream _ _ _ _).mono (by simp [mayWrite]))
      ((frame_raiseWireBounds _ _).mono (by simp [mayWrite])))
  case hdrDeserialize a =>
    have hfault : Frame [.header, .stream, .status] s (s.raiseWireBounds a) :=
      (frame_raiseWireBounds s a).mono (by decide)
    refine frame_ite hfault (frame_ite (frame_reply _ _ _ _) (frame_ite hfault ?_))
    intro p hp
    cases p <;> simp_all [Part.same, State.readByte, mayWrite]
  case mbEnq now _ _ _ _ _ _ =>
    exact frame_ite ((frame_mbPurge s now).trans (frame_mbAdmit _ _)) (frame_reply _ _ _ _)
  case mbDeq now _ =>
    exact frame_ite ((frame_mbPurge s now).trans (frame_mbTake _ _)) (frame_reply _ _ _ _)
  case mbDropnh now _ =>
    exact frame_ite ((frame_mbPurge s now).trans (frame_mbDropAll _ _)) (frame_reply _ _ _ _)
  case mbAlleq | mbNeteq | mbPromeq | mbLinkeq => exact frame_mbConsume s _
  case mbPurge now | mbSize now =>
    exact frame_ite ((frame_mbPurge s now).trans (frame_reply _ _ _ _)) (frame_reply _ _ _ _)
  case pbEnq now _ _ _ _ _ _ _ =>
    exact frame_ite ((frame_pbPurge s now).trans (frame_pbAdmit _ _ _)) (frame_reply _ _ _ _)
  case pbDeq now _ =>
    exact frame_ite ((frame_pbPurge s now).trans (frame_pbTake _ _ _)) (frame_reply _ _ _ _)
  case pbAlleq => exact frame_pbConsume s _
  case pbPurge now | pbSize now =>
    exact frame_ite ((frame_pbPurge s now).trans (frame_reply _ _ _ _)) (frame_reply _ _ _ _)
  case nqEnq =>
    exact frame_ite (frame_ite (frame_reply _ _ _ _) (frame_setQueue _ _ _ _)) (frame_reply _ _ _ _)
  case nqDeq now => exact frame_ite ((frame_nqCleanup s now).trans (frame_nqPop _)) (frame_reply _ _ _ _)
  case nqFindpop =>
    split
    · exact frame_setQueue _ _ _ _
    · exact frame_reply _ _ _ _
  case nqFlush => exact frame_setQueue _ _ _ _
  case nqCleanup now | nqSize now =>
    exact frame_ite ((frame_nqCleanup s now).trans (frame_reply _ _ _ _)) (frame_reply _ _ _ _)
  case mbSetmaxlen | pbSetmaxlen | nqSetmaxsize =>
    refine frame_ite (frame_reply _ _ _ _) fun p hp => ?_
    cases p <;> simp_all [Part.same, State.readByte, mayWrite]
  case hdrSet | mbSettimeout | pbSettimeout | nqSetmaxdelay =>
    intro p hp
    cases p <;> simp_all [Part.same, State.readByte, mayWrite]

/-- No command changes the parameters (00_scope.md R1). -/
theorem exec_params {i : Instr} {s t : State} (h : exec i s = .next t) : t.params = s.params :=
  exec_frame h .params (by cases i <;> simp [mayWrite])

/-- All that a command can do to the status registers (10_state.md R27): keep them, clear them on a reset, or
take the fault. -/
theorem exec_status {i : Instr} {s t : State} (h : exec i s = .next t) :
    (t.fault = s.fault ∧ t.fcause = s.fcause ∧ t.finfo = s.finfo) ∨
    (t.fault = false ∧ t.fcause = 0 ∧ t.finfo = 0) ∨
    (t.fault = true ∧ t.fcause = 0x80) := by
  by_cases hw : Part.status ∈ mayWrite i
  · cases i <;> simp only [mayWrite, List.mem_cons, List.not_mem_nil, reduceCtorEq, or_false, or_true] at hw
    case sysReset => cases h; exact .inr (.inl ⟨rfl, rfl, rfl⟩)
    all_goals
      rcases unlessHalted_cases h with ⟨-, rfl⟩ | ⟨-, rfl⟩
      · exact .inl ⟨rfl, rfl, rfl⟩
      (repeat' split) <;> first | exact .inl ⟨rfl, rfl, rfl⟩ | exact .inr (.inr ⟨rfl, rfl⟩)
  · exact .inl (exec_frame h .status hw)

/-! ## The values at reset -/

/-- A well-formed slot count fits the 32-bit register that holds it after a reset (R1, R33). -/
theorem toNat_slots {n : Nat} (h : n < 2 ^ 32) : (BitVec.ofNat 32 n).toNat = n := by
  rw [BitVec.toNat_ofNat, Nat.mod_eq_of_lt h]

/-- The power-on block has R33's values, and still has them with any WB. -/
theorem resetValues_of_block {p : Params} {t : State} {w : Memory} (hp : p.wf)
    (ht : t.toBlock = { Block.powerOn p with wb := w }) : ResetValues p t := by
  obtain ⟨-, -, -, -, -, -, hmb, -, hpb, -, hnq⟩ := hp
  unfold ResetValues
  rw [ht]
  exact ⟨rfl, rfl, rfl, rfl, rfl, rfl, rfl, rfl, rfl, toNat_slots hmb, toNat_slots hpb, toNat_slots hnq,
    rfl, rfl, rfl, rfl, rfl, rfl⟩

/-- An unwritten WB reads as the free power-on bytes (R33). -/
theorem powerOn_readByte (p : Params) (a : Nat) : (State.powerOn p).readByte a = Config.wbPowerOn a := rfl

/-- The invariant holds at power-on, whatever the well-formed parameters. -/
theorem inv_powerOn {p : Params} (hp : p.wf) : Inv (State.powerOn p) := by
  have ⟨_, _, _, _, _, hmb, hmb', hpb, hpb', _, hnq'⟩ := hp
  exact
    { params_wf := hp
      stream_fits := Nat.zero_le _
      wire_wf := Memory.wf_powerOn p
      maint_fits := Nat.zero_le _
      passive_fits := Nat.zero_le _
      queue_fits := Nat.zero_le _
      mbMaxLen_legal := ⟨hmb.trans_eq (toNat_slots hmb').symm, (toNat_slots hmb').le⟩
      pbMaxLen_legal := ⟨hpb.trans_eq (toNat_slots hpb').symm, (toNat_slots hpb').le⟩
      nqMaxSize_legal := (toNat_slots hnq').le
      maint_noDuplicate := List.Pairwise.nil
      passive_noDuplicate := List.Pairwise.nil
      maint_deadline := by simp
      passive_deadline := by simp
      queue_stamp := by simp
      status_consistent := by simp }

/-! ## An entry store -/

/-- What the invariant says of one entry store: it fits its slots, every entry stands to every later one as
`R` says, and each entry satisfies `P`. -/
structure StoreOk {α : Type} (slots : Nat) (R : α → α → Prop) (P : α → Prop) (l : List α) : Prop where
  fits : l.length ≤ slots
  pairwise : l.Pairwise R
  each : ∀ e ∈ l, P e

section
variable {α : Type} {slots : Nat} {R : α → α → Prop} {P : α → Prop} {l l' : List α}

/-- Removing entries keeps a store's part of the invariant. -/
theorem StoreOk.sublist (h : StoreOk slots R P l) (hl : l'.Sublist l) : StoreOk slots R P l' where
  fits := hl.length_le.trans h.fits
  pairwise := h.pairwise.sublist hl
  each e he := h.each e (hl.subset he)

/-- So does adding an entry at the back, when there is a slot for it and it agrees with those before it. -/
theorem StoreOk.snoc {c : α} (h : StoreOk slots R P l) (hlen : l.length < slots) (hR : ∀ e ∈ l, R e c)
    (hP : P c) : StoreOk slots R P (l ++ [c]) where
  fits := by simpa using hlen
  pairwise := List.pairwise_append.mpr ⟨h.pairwise, List.pairwise_singleton R c, by simpa using hR⟩
  each e he := by
    rcases List.mem_append.mp he with he | he
    · exact h.each e he
    · rwa [List.mem_singleton.mp he]

/-- There is a slot for an entry once room was made under a legal bound, also when the buffer was longer than
the bound (a setter does not trim it, R142, R169). -/
theorem makeRoom_length_lt_slots {maxLen : Word} (hpos : 1 ≤ maxLen.toNat) (hmax : maxLen.toNat ≤ slots)
    (hl : l.length ≤ slots) : (makeRoom maxLen l).length < slots := by
  unfold makeRoom
  split
  · rw [List.length_tail]; omega
  · omega

/-- An admitted enqueue with its eviction keeps a store's part of the invariant. -/
theorem StoreOk.enqueue {c : α} {maxLen : Word} (h : StoreOk slots R P l)
    (hmax : 1 ≤ maxLen.toNat ∧ maxLen.toNat ≤ slots) (hR : ∀ e ∈ l, R e c) (hP : P c) :
    StoreOk slots R P (makeRoom maxLen l ++ [c]) :=
  have hsub := makeRoom_sublist maxLen l
  (h.sublist hsub).snoc (makeRoom_length_lt_slots hmax.1 hmax.2 h.fits) (fun e he => hR e (hsub.subset he)) hP

end

theorem nowLegal_iff (now : Dword) : nowLegal now = true ↔ now.toNat < 2 ^ 63 := by
  simp [nowLegal]

/-- The exact deadline of R16 at a legal clock is in the range R16 states. -/
theorem deadlineInRange_deadlineAt {now : Dword} (h : nowLegal now = true) (timeout : Dword) :
    deadlineInRange (deadlineAt now timeout) := by
  have hnow := (nowLegal_iff now).mp h
  have hlow := BitVec.le_toInt timeout
  have hhigh := BitVec.toInt_lt (x := timeout)
  unfold deadlineInRange deadlineAt duration
  omega

/-! ## The invariant, piece by piece -/

/-- MB's part of the invariant. -/
abbrev MaintOk (p : Params) : List MaintEntry → Prop :=
  StoreOk p.mbSlots (fun e c => e.allEqual c = false) (fun e => deadlineInRange e.deadline)

/-- PB's part of the invariant. -/
abbrev PassiveOk (p : Params) : List PassiveEntry → Prop :=
  StoreOk p.pbSlots (fun e c => e.duplicates p.pbExactDupReject c = false) (fun e => deadlineInRange e.deadline)

/-- NQ's part of the invariant; it allows duplicates. -/
abbrev QueueOk (p : Params) : List QueueEntry → Prop :=
  StoreOk p.nqSlots (fun _ _ => True) (fun e => e.ts.toNat < 2 ^ 63)

section
variable {s t : State} {i : Instr}

theorem Inv.maintOk (hi : Inv s) : MaintOk s.params s.mb :=
  ⟨hi.maint_fits, hi.maint_noDuplicate, hi.maint_deadline⟩

theorem Inv.passiveOk (hi : Inv s) : PassiveOk s.params s.pb :=
  ⟨hi.passive_fits, hi.passive_noDuplicate, hi.passive_deadline⟩

theorem Inv.queueOk (hi : Inv s) : QueueOk s.params s.nq :=
  ⟨hi.queue_fits, List.pairwise_of_forall fun _ _ => trivial, hi.queue_stamp⟩

/-- MB keeps its part (R15, R16, R23). -/
theorem maintOk_exec (hi : Inv s) (h : exec i s = .next t) : MaintOk s.params t.mb := by
  rcases exec_maint h with hsub | ⟨_, now, _, _, _, _, _, _, c, -, hnow, rfl, hnew, rfl⟩
  · exact hi.maintOk.sublist hsub
  · exact (hi.maintOk.sublist (mbLive_sublist s now)).enqueue hi.mbMaxLen_legal hnew
      (deadlineInRange_deadlineAt hnow _)

/-- PB keeps its part (R16, R18, R23). -/
theorem passiveOk_exec (hi : Inv s) (h : exec i s = .next t) : PassiveOk s.params t.pb := by
  rcases exec_passive h with hsub | ⟨_, now, _, _, _, _, _, _, _, c, -, hnow, rfl, hnew, rfl⟩
  · exact hi.passiveOk.sublist hsub
  · exact (hi.passiveOk.sublist (pbLive_sublist s now)).enqueue hi.pbMaxLen_legal hnew
      (deadlineInRange_deadlineAt hnow _)

/-- NQ keeps its part (R19, R20): an enqueue needs room under the bound, and the bound is within the slots. -/
theorem queueOk_exec (hi : Inv s) (h : exec i s = .next t) : QueueOk s.params t.nq := by
  rcases exec_queue h with hsub | ⟨now, _, _, -, hnow, hlen, rfl⟩
  · exact hi.queueOk.sublist hsub
  · exact hi.queueOk.snoc (hlen.trans_le hi.nqMaxSize_legal) (fun _ _ => trivial) ((nowLegal_iff now).mp hnow)

/-- OSB stays within its capacity (R11). -/
theorem stream_fits_exec (hi : Inv s) (h : exec i s = .next t) : t.osb.length ≤ s.params.osbCap := by
  rcases exec_stream h with hkeep | hcap
  · rw [hkeep]; exact hi.stream_fits
  · exact hcap

/-- WB stays canonical and inside its size (R13). -/
theorem wire_wf_exec (hi : Inv s) (h : exec i s = .next t) : t.wb.wf s.params.wbSize := by
  rcases exec_wire h with hkeep | ⟨a, bs, hfit, hput⟩
  · rw [hkeep]; exact hi.wire_wf
  · rw [hput]; exact Memory.wf_putAll hi.wire_wf hfit

/-- The three bound registers stay legal (R24 to R26). -/
theorem bounds_legal_exec (hi : Inv s) (h : exec i s = .next t) :
    (1 ≤ t.mbMaxLen.toNat ∧ t.mbMaxLen.toNat ≤ s.params.mbSlots) ∧
    (1 ≤ t.pbMaxLen.toNat ∧ t.pbMaxLen.toNat ≤ s.params.pbSlots) ∧
    t.nqMaxSize.toNat ≤ s.params.nqSlots := by
  obtain ⟨-, -, -, -, -, hmb, hmb', hpb, hpb', -, hnq'⟩ := hi.params_wf
  obtain ⟨hm, hp, hn⟩ := exec_bounds h
  refine ⟨?_, ?_, ?_⟩
  · rcases hm with hkeep | ⟨hreset, -⟩ | ⟨n, -, rfl, hlegal⟩
    · rw [hkeep]; exact hi.mbMaxLen_legal
    · rw [hreset, toNat_slots hmb']; exact ⟨hmb, le_rfl⟩
    · exact hlegal
  · rcases hp with hkeep | ⟨hreset, -⟩ | ⟨n, -, rfl, hlegal⟩
    · rw [hkeep]; exact hi.pbMaxLen_legal
    · rw [hreset, toNat_slots hpb']; exact ⟨hpb, le_rfl⟩
    · exact hlegal
  · rcases hn with hkeep | ⟨hreset, -⟩ | ⟨n, -, rfl, hlegal⟩
    · rw [hkeep]; exact hi.nqMaxSize_legal
    · rw [hreset, toNat_slots hnq']
    · exact hlegal

/-- The status registers stay consistent (R27). -/
theorem status_consistent_exec (hi : Inv s) (h : exec i s = .next t) :
    (t.fault = true → t.fcause = 0x80) ∧ (t.fault = false → t.fcause = 0 ∧ t.finfo = 0) := by
  rcases exec_status h with ⟨hf, hc, hn⟩ | ⟨hf, hc, hn⟩ | ⟨hf, hc⟩
  · rw [hf, hc, hn]; exact hi.status_consistent
  · simp [hf, hc, hn]
  · simp [hf, hc]

/-- Every command keeps the invariant. -/
theorem inv_exec (hi : Inv s) (h : exec i s = .next t) : Inv t := by
  have hm := maintOk_exec hi h
  have hp := passiveOk_exec hi h
  have hq := queueOk_exec hi h
  have ho := stream_fits_exec hi h
  have hw := wire_wf_exec hi h
  obtain ⟨hbm, hbp, hbq⟩ := bounds_legal_exec hi h
  have hs := status_consistent_exec hi h
  have hwf := hi.params_wf
  rw [← exec_params h] at hm hp hq ho hw hbm hbp hbq hwf
  exact ⟨hwf, ho, hw, hm.fits, hp.fits, hq.fits, hbm, hbp, hbq, hm.pairwise, hp.pairwise, hm.each, hp.each,
    hq.each, hs⟩

/-- The invariant looks only at the block and its parameters. -/
theorem inv_onHost (hi : Inv s) (host : HostSide) : Inv (s.onHost host) :=
  { hi with }

/-- Every step on a presented descriptor keeps the invariant; a refusal only replies. -/
theorem inv_step_present {d : Desc} (hi : Inv s) (h : step (s.present d) = .next t) : Inv t := by
  cases hd : decode d with
  | ok i =>
    rw [step_present_of_ok hd] at h
    exact inv_exec hi h
  | error e =>
    rw [step_present_of_error hd] at h
    cases h
    exact inv_onHost hi _

end

/-- Every step keeps the invariant, one that waits for a descriptor included. -/
theorem inv_step {s t : State} (hi : Inv s) (h : step s = .next t) : Inv t := by
  cases hin : s.input with
  | nil =>
    rw [step_of_input_nil hin] at h
    cases h
    exact hi
  | cons d rest =>
    rw [← State.present_of_input hin] at h
    exact inv_step_present (inv_onHost hi { s.toHostSide with input := rest }) h

end Sys2Proof.Machine

namespace Sys2Proof.Proofs

open Sys2Proof.Machine

/-- Settles O10: command by command, each piece of the invariant from what a command can do to that piece. -/
theorem invKeptByStep : Obligations.InvKeptByStep := fun _ _ hi h => inv_step hi h

/-- Settles O53, by the case split of `exec_frame`. -/
theorem partsWrittenOnlyBy : Obligations.PartsWrittenOnlyBy := fun _ _ _ h => exec_frame h

/-- Settles O8: both resets leave the power-on block, SYS.RESET with WB as it was. -/
theorem resetStateValues : Obligations.ResetStateValues :=
  ⟨fun p hp => ⟨resetValues_of_block hp (w := []) rfl, powerOn_readByte p⟩, rfl,
    fun s hs => ⟨_, rfl, resetValues_of_block hs (w := s.wb) rfl, fun _ => rfl⟩⟩

/-- Settles O9: the default parameters are well formed. -/
theorem invAtReset : Obligations.InvAtReset := inv_powerOn (by decide)

end Sys2Proof.Proofs

/-!
The statements of 30_encoding.md: the encoder and the decoder are inverse to each other (R64, R84), the rows of
the opcode table are the commands' descriptors (R63), a descriptor outside the table is refused (R73), and which
responses carry an entry (R69).
-/

namespace Sys2Proof

open Sys2Proof.Spec

/-! ## One descriptor per command -/

/-- The row that `decodeFields` takes accepts only the fields it allows (R64), which are those the encoder
writes. -/
theorem encodeFields_of_decodeFields {f : Fields} {i : Instr} (h : decodeFields f = .ok i) :
    encodeFields i = f := by
  unfold decodeFields at h
  split at h
  case h_49 => cases h
  all_goals
    obtain ⟨hf, rfl⟩ := Fields.selects_eq_ok.mp h
    exact hf.symm

/-- The decoder and the encoder are inverse to each other (R64, R84). -/
theorem decode_eq_ok_iff {d : Desc} {i : Instr} : decode d = .ok i ↔ encode i = d := by
  constructor
  · intro h
    rw [encode, encodeFields_of_decodeFields h, Fields.toDesc_ofDesc]
  · rintro rfl
    exact decode_encode i

/-! ## The opcode table

Each of its 48 rows is met by the descriptors of one command only (`decode_of_matchesRow`), and each command's
descriptors meet a row of its mnemonic (`exists_row_of_encode`). No mnemonic occurs twice, so no row has to be
held against the commands of the others. -/

/-- A mask of ones keeps the field. -/
theorem and_of_eq_allOnes {w : Nat} {m : BitVec w} (h : m = BitVec.allOnes w) (x : BitVec w) : x &&& m = x := by
  rw [h, BitVec.and_allOnes]

/-- A row is matched field by field. -/
theorem matchesRow_toDesc {row : String × Nat × Nat} {f : Fields} :
    MatchesRow row f.toDesc ↔
      f.land (Fields.ofDesc (BitVec.ofNat 384 row.2.2)) = Fields.ofDesc (BitVec.ofNat 384 row.2.1) := by
  rw [MatchesRow, Desc.and_eq_toDesc, Fields.ofDesc_toDesc]
  constructor
  · intro h
    rw [← h, Fields.ofDesc_toDesc]
  · intro h
    rw [h, Fields.toDesc_ofDesc]

/-- The first row whose match carries this opcode in its top byte `D[0]` (R61; log 5). -/
def rowOfOpcode (op : Byte) : Option (String × Nat × Nat) :=
  opcodeTable.find? fun row => row.2.1 >>> 376 == op.toNat

/-- The row of a command's opcode has its mnemonic, and a mask that covers only bits its operands leave alone. -/
theorem rowOfOpcode_opcode (i : Instr) :
    ∃ row, rowOfOpcode i.opcode = some row ∧ row.1 = i.mnemonic ∧ MatchesRow row (encode i) := by
  unfold encode
  cases i
  all_goals
    refine ⟨_, rfl, rfl, matchesRow_toDesc.mpr ?_⟩
    simp [encodeFields, Fields.land, Fields.ofDesc]

theorem exists_row_of_encode (i : Instr) :
    ∃ row ∈ opcodeTable, row.1 = i.mnemonic ∧ MatchesRow row (encode i) := by
  obtain ⟨row, hrow, hname, hmatch⟩ := rowOfOpcode_opcode i
  exact ⟨row, List.mem_of_find?_eq_some hrow, hname, hmatch⟩

/-- Row by row: the match gives the opcode, and every bit outside the fields the command uses must be 0
(R63, R64), so the decoder accepts. -/
theorem decode_toDesc_of_matchesRow (f : Fields) :
    ∀ row ∈ opcodeTable, MatchesRow row f.toDesc → ∃ i, decode f.toDesc = .ok i ∧ i.mnemonic = row.1 := by
  cases f
  simp only [opcodeTable, opcodeRows0, opcodeRows1, opcodeRows2, opcodeRows3, List.forall_mem_append,
    List.forall_mem_cons, List.not_mem_nil, false_imp_iff, implies_true, and_true, matchesRow_toDesc,
    decode_toDesc]
  and_intros
  all_goals
    intro h
    simp only [Fields.land, Fields.ofDesc, BitVec.reduceExtractLsb', BitVec.reduceAllOnes, and_of_eq_allOnes,
      BitVec.and_zero, Fields.mk.injEq, true_and, and_true] at h
    simp only [h]
    exact ⟨_, Fields.selects_eq_ok.mpr ⟨rfl, rfl⟩, rfl⟩

theorem decode_of_matchesRow {row : String × Nat × Nat} {d : Desc} (hrow : row ∈ opcodeTable)
    (h : MatchesRow row d) : ∃ i, decode d = .ok i ∧ i.mnemonic = row.1 := by
  have hf := decode_toDesc_of_matchesRow (Fields.ofDesc d) row hrow
  rw [Fields.toDesc_ofDesc] at hf
  exact hf h

/-- The 48 mnemonics are distinct. -/
theorem opcodeTable_nodup : (opcodeTable.map (·.1)).Nodup := by decide

/-- A row selects exactly the commands of its mnemonic (R63). -/
theorem matchesRow_iff_decode {row : String × Nat × Nat} {d : Desc} (hrow : row ∈ opcodeTable) :
    MatchesRow row d ↔ ∃ i, decode d = .ok i ∧ i.mnemonic = row.1 := by
  refine ⟨decode_of_matchesRow hrow, ?_⟩
  rintro ⟨i, hd, hi⟩
  obtain ⟨row', hrow', hname, hmatch⟩ := exists_row_of_encode i
  have hsame : row' = row := List.inj_on_of_nodup_map opcodeTable_nodup hrow' hrow (hname.trans hi)
  rwa [hsame, decode_eq_ok_iff.mp hd] at hmatch

/-- The illegal descriptors are those that no row matches (R63, R73, R84). -/
theorem matchesNoRow_iff_decode_error {d : Desc} :
    (∀ row ∈ opcodeTable, ¬ MatchesRow row d) ↔ ∃ e, decode d = .error e := by
  constructor
  · intro hno
    cases hd : decode d with
    | error e => exact ⟨e, rfl⟩
    | ok i =>
      obtain ⟨row, hrow, -, hmatch⟩ := exists_row_of_encode i
      rw [decode_eq_ok_iff.mp hd] at hmatch
      exact absurd hmatch (hno row hrow)
  · rintro ⟨e, he⟩ row hrow hmatch
    obtain ⟨i, hi, -⟩ := decode_of_matchesRow hrow hmatch
    rw [hi] at he
    cases he

/-! ## The opcodes that no command has (R73) -/

theorem Instr.opcode_assigned (i : Instr) :
    0 < i.opcode.toNat ∧ i.opcode.toNat < 0x4C ∧ i.opcode.toNat ∉ [0x33, 0x35, 0x36, 0x37] := by
  cases i <;> simp [Instr.opcode]

/-- What decodes carries the opcode of its command. -/
theorem op_of_decode {d : Desc} {i : Instr} (h : decode d = .ok i) : (Fields.ofDesc d).op = i.opcode := by
  rw [← decode_eq_ok_iff.mp h]
  exact Laws.EncodedOpcode.statement_of_fields (by cases i <;> rfl)

theorem decode_error_of_unassigned {d : Desc}
    (h : d = 0 ∨ (Fields.ofDesc d).op.toNat ∈ [0x33, 0x35, 0x36, 0x37] ∨ 0x4C ≤ (Fields.ofDesc d).op.toNat) :
    ∃ e, decode d = .error e := by
  cases hd : decode d with
  | error e => exact ⟨e, rfl⟩
  | ok i =>
    obtain ⟨hpos, hlt, hgap⟩ := i.opcode_assigned
    rw [← op_of_decode hd] at hpos hlt hgap
    rcases h with rfl | hmem | hge
    · simp [Fields.ofDesc] at hpos
    · exact absurd hmem hgap
    · exact absurd hlt (Nat.not_lt.mpr hge)

end Sys2Proof

namespace Sys2Proof.Machine

/-- Taking the next descriptor and replying changes no piece of the block. -/
theorem frame_consume (s : State) (rest : List Desc) (r : Response) :
    Frame [.input] s ({ s with input := rest }.reply r []) := by
  intro p hp
  cases p <;> simp_all [Part.same, State.readByte]

/-! ## The entry of a response (R69) -/

/-- The four dequeue-type commands. -/
def Dequeues (i : Instr) : Prop :=
  (∃ now key, i = .mbDeq now key) ∨ (∃ now key, i = .pbDeq now key) ∨ (∃ now, i = .nqDeq now) ∨
    ∃ key, i = .nqFindpop key

/-- The entry is one that the command's own store holds. -/
def FromOwnStore (i : Instr) (s : State) : Entry → Prop
  | .maint e => e ∈ s.mb ∧ ∃ now key, i = .mbDeq now key
  | .passive e => e ∈ s.pb ∧ ∃ now key, i = .pbDeq now key
  | .queue e => e ∈ s.nq ∧ ((∃ now, i = .nqDeq now) ∨ ∃ key, i = .nqFindpop key)

theorem FromOwnStore.dequeues {i : Instr} {s : State} {e : Entry} (h : FromOwnStore i s e) : Dequeues i := by
  cases e with
  | maint e => exact .inl h.2
  | passive e => exact .inr (.inl h.2)
  | queue e => exact .inr (.inr h.2)

theorem mem_of_split {α : Type} {l front back : List α} {e : α} (h : l = front ++ e :: back) : e ∈ l := by
  simp [h]

/-- A command that is not one of the four hands nothing over. -/
theorem exec_entry_none {i : Instr} {s t : State} (h : exec i s = .next t) (hi : ¬ Dequeues i) :
    t.resp.entry = none := by
  cases i
  case mbDeq now key => exact absurd (.inl ⟨now, key, rfl⟩) hi
  case pbDeq now key => exact absurd (.inr (.inl ⟨now, key, rfl⟩)) hi
  case nqDeq now => exact absurd (.inr (.inr (.inl ⟨now, rfl⟩))) hi
  case nqFindpop key => exact absurd (.inr (.inr (.inr ⟨key, rfl⟩))) hi
  case sysReset => cases h; rfl
  case sysStatus => cases h; rfl
  all_goals
    rcases unlessHalted_cases h with ⟨-, rfl⟩ | ⟨-, rfl⟩
    · rfl
  case mbEnq =>
    split
    · rcases mbAdmit_cases _ _ with ⟨-, h⟩ | ⟨-, h⟩ <;> rw [h] <;> rfl
    · rfl
  case pbEnq =>
    split
    · rcases pbAdmit_cases _ _ _ with ⟨-, h⟩ | ⟨-, h⟩ <;> rw [h] <;> rfl
    · rfl
  case mbAlleq | mbNeteq | mbPromeq | mbLinkeq =>
    rcases mbConsume_cases s _ with ⟨_, _, _, -, -, -, h⟩ | ⟨-, h⟩ <;> rw [h] <;> rfl
  case pbAlleq =>
    rcases pbConsume_cases s _ with ⟨_, _, _, -, -, -, h⟩ | ⟨-, h⟩ <;> rw [h] <;> rfl
  all_goals ((repeat' split) <;> rfl)

/-- The two answers of a dequeue-type command: no entry, and flag 0 if the status is OK; or OK with flag 1 and an
entry of the command's own store. -/
def HandsOver (i : Instr) (s : State) (r : Response) : Prop :=
  (r.entry = none ∧ (r.status = .ok → r.flag = false)) ∨
    ∃ e, r = { flag := true, entry := some e } ∧ FromOwnStore i s e

/-- All that the four dequeue-type commands can answer: a sweep before the scan only removes entries, so what
the scan finds was in the store. -/
theorem exec_entry_of_dequeues {i : Instr} {s t : State} (h : exec i s = .next t) (hi : Dequeues i) :
    HandsOver i s t.resp := by
  have hnone {st : Status} (hst : st ≠ .ok) : HandsOver i s { status := st } :=
    .inl ⟨rfl, fun hok => absurd hok hst⟩
  have hmiss : HandsOver i s { flag := false } := .inl ⟨rfl, fun _ => rfl⟩
  rcases hi with ⟨now, key, rfl⟩ | ⟨now, key, rfl⟩ | ⟨now, rfl⟩ | ⟨key, rfl⟩
  all_goals
    rcases unlessHalted_cases h with ⟨-, rfl⟩ | ⟨-, rfl⟩
    · exact hnone (by decide)
  · split
    · rcases mbTake_cases (s.mbPurge now) key with ⟨_, e, _, hmb, -, -, hr⟩ | ⟨-, hr⟩ <;> rw [hr]
      · exact .inr ⟨.maint e, rfl, (mbLive_sublist s now).subset (mem_of_split hmb), now, key, rfl⟩
      · exact hmiss
    · exact hnone (by decide)
  · split
    · rcases pbTake_cases (s.pbPurge now) key (s.pbExpiredEvents now) with
        ⟨_, e, _, hpb, -, -, hr⟩ | ⟨-, hr⟩ <;> rw [hr]
      · exact .inr ⟨.passive e, rfl, (pbLive_sublist s now).subset (mem_of_split hpb), now, key, rfl⟩
      · exact hmiss
    · exact hnone (by decide)
  · split
    · rcases nqPop_cases (s.nqCleanup now) with ⟨-, hr⟩ | ⟨e, rest, hnq, hr⟩ <;> rw [hr]
      · exact hmiss
      · exact .inr ⟨.queue e, rfl, (nqLive_sublist s now).subset (mem_of_split (front := []) hnq),
          .inl ⟨now, rfl⟩⟩
    · exact hnone (by decide)
  · split
    · rename_i e he
      exact .inr ⟨.queue e, rfl, List.mem_of_find?_eq_some he, .inr ⟨key, rfl⟩⟩
    · exact hmiss

/-- An entry in a response is one of the command's own store. -/
theorem exec_entry_fromOwnStore {i : Instr} {s t : State} {e : Entry} (h : exec i s = .next t)
    (he : t.resp.entry = some e) : FromOwnStore i s e := by
  by_cases hi : Dequeues i
  · rcases exec_entry_of_dequeues h hi with ⟨hnone, -⟩ | ⟨e', hr, hown⟩
    · exact absurd (hnone.symm.trans he) (by simp)
    · rw [hr] at he
      cases he
      exact hown
  · exact absurd ((exec_entry_none h hi).symm.trans he) (by simp)

/-- The `iff` of R69. -/
theorem exec_entry_isSome_iff {i : Instr} {s t : State} (h : exec i s = .next t) :
    t.resp.entry.isSome = true ↔ t.resp.status = .ok ∧ t.resp.flag = true ∧ Dequeues i := by
  by_cases hi : Dequeues i
  · rcases exec_entry_of_dequeues h hi with ⟨hnone, hflag⟩ | ⟨e, hr, -⟩
    · simp +contextual [hnone, hflag]
    · simp [hr, hi]
  · simp [exec_entry_none h hi, hi]

end Sys2Proof.Machine

namespace Sys2Proof.Proofs

open Sys2Proof.Machine

/-- Settles O2: the fields of a descriptor read back as written, and the command's row accepts them. -/
theorem decodeEncode : Obligations.DecodeEncode := decode_encode

/-- Settles O3: the row that accepted the descriptor allowed no other bit. -/
theorem encodeDecode : Obligations.EncodeDecode := fun _ _ => decode_eq_ok_iff.mp

/-- Settles O4: row by row in one direction, command by command in the other. -/
theorem opcodeTableSelects : Obligations.OpcodeTableSelects := fun _ =>
  ⟨fun _ hrow => matchesRow_iff_decode hrow, matchesNoRow_iff_decode_error⟩

/-- Settles O6: what matches no row decodes to an error, and the step on an error only replies. -/
theorem illegalDescriptorRefused : Obligations.IllegalDescriptorRefused := by
  refine ⟨fun s d rest hs hno => ?_, fun d hd => ?_⟩
  · obtain ⟨e, he⟩ := matchesNoRow_iff_decode_error.mp hno
    have hstep := step_present_of_error he { s with input := rest }
    rw [State.present_of_input hs] at hstep
    exact ⟨_, hstep, rfl, rfl, rfl, frame_consume s rest _⟩
  · exact matchesNoRow_iff_decode_error.mpr (decode_error_of_unassigned hd)

/-- Settles O55: from what the four dequeue-type commands, and all the others, can answer. -/
theorem entryPresentExactly : Obligations.EntryPresentExactly := fun _ _ _ h =>
  ⟨exec_entry_isSome_iff h, fun _ he => exec_entry_fromOwnStore h he,
    fun _ he => exec_entry_fromOwnStore h he, fun _ he => exec_entry_fromOwnStore h he⟩

end Sys2Proof.Proofs

/-!
The statements of 40_system_wire.md: SYS.RESET and SYS.STATUS, which run halted or not (R90, R91), CFG.GET (R92),
and the one-byte accesses to the wire buffer (R93, R94).
-/

namespace Sys2Proof.Machine

open Sys2Proof.Spec

/-! ## Completion statements -/

/-- A command's descriptor is the one of its fields (30_encoding.md R62, R84). -/
theorem encodes_encodeFields (i : Instr) : Encodes i (encodeFields i) := ⟨rfl, decode_encode i⟩

/-- A command that only replies, with OK or a refusal, changes nothing. -/
theorem completes_of_reply {i : Instr} {s : State} {r : Response} {evs : List Event}
    (h : exec i s = .next (s.reply r evs)) : Completes i s [] r evs fun _ => True :=
  ⟨_, h, rfl, rfl, frame_reply [] s r evs, trivial⟩

/-- The bytes of a range are what `MemRead` gives. -/
theorem wireBytes_eq_memRead (s : State) (a n : Nat) : wireBytes s a n = s.memRead a n := by
  rw [wireBytes, State.memRead, List.range'_eq_map_range, List.map_map]
  rfl

/-- After `MemWrite` the bytes are in WB and the rest of it reads as before. -/
theorem stores_memWrite (s : State) (a : Nat) (bs : List Byte) (r : Response) :
    Stores s ((s.memWrite a bs).reply r) a bs :=
  ⟨(wireBytes_eq_memRead _ _ _).trans (State.memRead_memWrite s a bs),
    fun _ hk => State.readByte_memWrite_outside s hk⟩

/-- A command that writes bytes to WB and replies changes nothing but those bytes. -/
theorem completes_of_store {i : Instr} {s : State} {a : Nat} {bs : List Byte} {r : Response}
    (h : exec i s = .next ((s.memWrite a bs).reply r)) :
    Completes i s [.wire] r [] fun t => Stores s t a bs :=
  ⟨_, h, rfl, rfl, frame_store s a bs r, stores_memWrite s a bs r⟩

/-! ## The selectors of CFG.GET -/

/-- Each row of the table is the value behind its selector; the registers narrower than `val` are
zero-extended. -/
theorem config_of_mem_selectorTable {s : State} {sel : Nat} {v : Dword} (h : (sel, v) ∈ selectorTable s) :
    s.config sel = some v := by
  have hrows : ∀ row ∈ selectorTable s, s.config row.1 = some row.2 := by
    simp [selectorTable, State.config, result, optBase]
  exact hrows _ h

/-- No other selector has a value. -/
theorem config_eq_none {s : State} {sel : Nat}
    (h : sel ∉ [0, 1, 2, 3, 4, 5, 8, 9, 10, 11, 12, 13, 14, 15]) : s.config sel = none := by
  unfold State.config
  split
  case h_15 => rfl
  all_goals exact absurd (by decide) h

/-! ## The operands of WB.WRITE and WB.READ -/

/-- A one-byte access fits exactly at the addresses of WB (20_memory.md R49). -/
theorem State.fits_one (s : State) (a : Nat) : s.fits a 1 = decide (a < s.params.wbSize) := rfl

theorem byteOperand_of_le {b : Word} (h : b.toNat ≤ 255) : byteOperand b = some (BitVec.ofNat 8 b.toNat) := by
  rw [byteOperand, if_pos h, BitVec.ofNat_toNat]

theorem byteOperand_of_gt {b : Word} (h : 255 < b.toNat) : byteOperand b = none :=
  if_neg (Nat.not_le.mpr h)

/-! ## What each command answers -/

/-- Halted or not, the fault registers are read out zero-extended (R91). -/
theorem exec_sysStatus (s : State) :
    exec .sysStatus s = .next (s.reply
      { flag := s.fault, val := BitVec.ofNat 64 s.fcause.toNat, val2 := BitVec.ofNat 64 s.finfo.toNat }) := by
  rw [BitVec.ofNat_toNat, BitVec.ofNat_toNat]
  rfl

section running
variable {s : State} (hf : s.fault = false)
include hf

theorem exec_cfgGet_assigned {sel : Word} {v : Dword} (h : s.config sel.toNat = some v) :
    exec (.cfgGet sel) s = .next (s.reply { val := v }) := by
  simp [exec, execCfgGet, hf, h]

theorem exec_cfgGet_unassigned {sel : Word} (h : s.config sel.toNat = none) :
    exec (.cfgGet sel) s = .next (s.reply { status := .errArg }) := by
  simp [exec, execCfgGet, hf, h]

theorem exec_wbWrite_badByte (a : Word) {b : Word} (hb : 255 < b.toNat) :
    exec (.wbWrite a b) s = .next (s.reply { status := .errArg }) := by
  simp [exec, execWbWrite, hf, byteOperand_of_gt hb]

theorem exec_wbWrite_outside {a b : Word} (hb : b.toNat ≤ 255) (ha : s.params.wbSize ≤ a.toNat) :
    exec (.wbWrite a b) s = .next (s.reply { status := .errBounds }) := by
  simp [exec, execWbWrite, hf, byteOperand_of_le hb, State.fits_one, Nat.not_lt.mpr ha]

theorem exec_wbWrite_inside {a b : Word} (hb : b.toNat ≤ 255) (ha : a.toNat < s.params.wbSize) :
    exec (.wbWrite a b) s = .next ((s.memWrite a.toNat [BitVec.ofNat 8 b.toNat]).reply {}) := by
  simp [exec, execWbWrite, hf, byteOperand_of_le hb, State.fits_one, ha]

theorem exec_wbRead_outside {a : Word} (ha : s.params.wbSize ≤ a.toNat) :
    exec (.wbRead a) s = .next (s.reply { status := .errBounds }) := by
  simp [exec, execWbRead, hf, State.fits_one, Nat.not_lt.mpr ha]

theorem exec_wbRead_inside {a : Word} (ha : a.toNat < s.params.wbSize) :
    exec (.wbRead a) s = .next (s.reply (valued (s.readByte a.toNat).toNat)) := by
  simp [exec, execWbRead, hf, State.fits_one, ha, valued]

end running

end Sys2Proof.Machine

namespace Sys2Proof.Proofs

open Sys2Proof.Machine

/-- Settles O11: the block is the power-on block but for WB, which the reset keeps. -/
theorem sysReset : Obligations.SysReset := fun s =>
  ⟨encodes_encodeFields _, _, rfl, rfl, rfl, (frame_resetExceptWire s).trans (frame_reply _ _ _ _),
    fun hp => resetValues_of_block hp (w := s.wb) rfl⟩

/-- Settles O12: the command only replies, so it changes nothing. -/
theorem sysStatus : Obligations.SysStatus := fun s =>
  ⟨encodes_encodeFields _, completes_of_reply (exec_sysStatus s)⟩

/-- Settles O13: the selector table row by row, and no value outside it. -/
theorem cfgGet : Obligations.CfgGet := fun _ _ hf =>
  ⟨encodes_encodeFields _,
    fun _ hv => completes_of_reply (exec_cfgGet_assigned hf (config_of_mem_selectorTable hv)),
    fun hsel => completes_of_reply (exec_cfgGet_unassigned hf (config_eq_none hsel))⟩

/-- Settles O14: the byte test, then the bounds test, then the store. -/
theorem wbWrite : Obligations.WbWrite := fun _ a _ hf =>
  ⟨encodes_encodeFields _,
    fun hb => completes_of_reply (exec_wbWrite_badByte hf a hb),
    fun hb ha => completes_of_reply (exec_wbWrite_outside hf hb ha),
    fun hb ha => completes_of_store (exec_wbWrite_inside hf hb ha)⟩

/-- Settles O15: the bounds test, then the byte as it reads. -/
theorem wbRead : Obligations.WbRead := fun _ _ hf =>
  ⟨encodes_encodeFields _,
    fun ha => completes_of_reply (exec_wbRead_outside hf ha),
    fun ha => completes_of_reply (exec_wbRead_inside hf ha)⟩

end Sys2Proof.Proofs

/-!
The statements of 41_option_codec.md: the pad (R100, R103), the stream's clear, append, size and read (R102, R104,
R105, R108), its way to WB and back (R106, R107), and the decoder of one element (R110), which answers for an
appended option what was appended.
-/

namespace Sys2Proof.Machine

open Sys2Proof.Spec

/-! ## Completion statements -/

/-- A command that replaces OSB and replies changes nothing else. -/
theorem completes_of_setStream {i : Instr} {s : State} {l : List Byte} {r : Response}
    (h : exec i s = .next ({ s with osb := l }.reply r)) :
    Completes i s [.stream] r [] fun t => t.osb = l :=
  ⟨_, h, rfl, rfl, frame_setStream s l r [], rfl⟩

/-- A command that raises FAULT_WIRE_BOUNDS takes the fault (60_exceptions.md R207). -/
theorem faults_of_raiseWireBounds {i : Instr} {s : State} {info : Word}
    (h : exec i s = .next (s.raiseWireBounds info)) : Faults i s info :=
  ⟨_, h, rfl, rfl, frame_raiseWireBounds s info, rfl, rfl, rfl⟩

/-- A command that ended with OK did not end with a refusal. -/
theorem eq_ok_of_exec_reply {i : Instr} {s t : State} {r : Response} (hr : exec i s = .next (s.reply r))
    (h : exec i s = .next t) (hok : t.resp.status = .ok) : r.status = .ok := by
  rw [hr] at h
  cases h
  exact hok

theorem toNat_result {n : Nat} (h : n < 2 ^ 64) : (result n).toNat = n :=
  (BitVec.toNat_ofNat n 64).trans (Nat.mod_eq_of_lt h)

/-! ## Pads, fillers and elements in the words of the statements -/

/-- `calc_pad` is a pad of R100, for every factor but 0. -/
theorem isPad_calcPad (osz o : Nat) {f : Byte} (hf : f ≠ 0) : IsPad osz f.toNat o (calcPad osz f.toNat o) :=
  calcPad_spec osz f.toNat o (Nat.pos_of_ne_zero fun h => hf (BitVec.eq_of_toNat_eq h))

/-- A pad is below its factor, so the factor is not 0. -/
theorem ne_zero_of_isPad {osz o pad : Nat} {f : Byte} (h : IsPad osz f.toNat o pad) : f ≠ 0#8 := by
  rintro rfl
  exact Nat.not_lt_zero _ h.1

theorem filler_eq_fillerOf (p : Params) (pad : Nat) : filler p pad = fillerOf p pad := by
  match pad with
  | 0 => rfl
  | 1 => rfl
  | n + 2 => rfl

/-- `of_size` is the least multiple of 4 that holds the stream (R101). -/
theorem State.streamSize_eq_roundUp4 (s : State) : s.streamSize = roundUp4 s.osb.length := by
  have hsize := s.streamSize_spec
  unfold roundUp4
  omega

/-- The trailing pad is what is missing to that multiple, so the stream is emitted as R79 says. -/
theorem State.emittedStream_eq_emitted (s : State) : s.emittedStream = emitted s.params s.osb := by
  have hpad : trailingPad s.osb.length = roundUp4 s.osb.length - s.osb.length := by
    rw [← s.streamSize_eq_roundUp4, State.streamSize, Nat.add_sub_cancel_left]
  rw [State.emittedStream, hpad, filler_eq_fillerOf, emitted]

/-- The three fields of OPT.DECODE's `val2` as one number (R110). -/
theorem elementInfo_eq_ofNat (kind : BitVec 2) (t n : Byte) :
    elementInfo kind t n = BitVec.ofNat 64 (kind.toNat * 65536 + t.toNat * 256 + n.toNat) := by
  have hbits : (kind ++ t ++ n).toNat = kind.toNat * 65536 + t.toNat * 256 + n.toNat := by
    rw [BitVec.toNat_append, BitVec.toNat_append, ← Nat.shiftLeft_add_eq_or_of_lt t.isLt,
      ← Nat.shiftLeft_add_eq_or_of_lt n.isLt, Nat.shiftLeft_eq, Nat.shiftLeft_eq]
    ring
  rw [elementInfo, ← hbits, BitVec.ofNat_toNat]

/-! ## What each command answers, but for OF.APPEND -/

section running
variable {s : State} (hf : s.fault = false)
include hf

theorem exec_ofClear : exec .ofClear s = .next ({ s with osb := [] }.reply {}) := by
  simp [exec, execOfClear, hf]

theorem exec_ofCalcpad_zeroFactor {f : Byte} (h0 : f = 0) (o : Byte) :
    exec (.ofCalcpad f o) s = .next (s.reply { status := .errArg }) := by
  simp [exec, execOfCalcpad, hf, h0]

theorem exec_ofCalcpad {f : Byte} (h0 : f ≠ 0#8) (o : Byte) :
    exec (.ofCalcpad f o) s = .next (s.reply (valued (calcPad s.osb.length f.toNat o.toNat))) := by
  simp [exec, execOfCalcpad, hf, h0, valued, result]

theorem exec_ofSize : exec .ofSize s = .next (s.reply (valued (roundUp4 s.osb.length))) := by
  simp [exec, execOfSize, hf, valued, result, s.streamSize_eq_roundUp4]

theorem exec_ofSerialize_outside {a : Word} (ha : s.params.wbSize < a.toNat + roundUp4 s.osb.length) :
    exec (.ofSerialize a) s = .next (s.reply { status := .errBounds }) := by
  simp [exec, execOfSerialize, hf, State.fits_iff, s.streamSize_eq_roundUp4, Nat.not_le.mpr ha]

theorem exec_ofSerialize_inside {a : Word} (ha : a.toNat + roundUp4 s.osb.length ≤ s.params.wbSize) :
    exec (.ofSerialize a) s =
      .next ((s.memWrite a.toNat (emitted s.params s.osb)).reply (valued (roundUp4 s.osb.length))) := by
  simp [exec, execOfSerialize, hf, State.fits_iff, s.streamSize_eq_roundUp4, s.emittedStream_eq_emitted, ha,
    valued, result]

theorem exec_ofDeserialize_overflow (a : Word) {n : Word} (hn : s.params.osbCap < n.toNat) :
    exec (.ofDeserialize a n) s = .next (s.reply { status := .errOverflow }) := by
  simp [exec, execOfDeserialize, hf, hn]

theorem exec_ofDeserialize_outside {a n : Word} (hn : n.toNat ≤ s.params.osbCap)
    (ha : s.params.wbSize < a.toNat + n.toNat) :
    exec (.ofDeserialize a n) s = .next (s.raiseWireBounds a) := by
  simp [exec, execOfDeserialize, hf, State.fits_iff, Nat.not_lt.mpr hn, Nat.not_le.mpr ha]

theorem exec_ofDeserialize_inside {a n : Word} (hn : n.toNat ≤ s.params.osbCap)
    (ha : a.toNat + n.toNat ≤ s.params.wbSize) :
    exec (.ofDeserialize a n) s =
      .next ({ s with osb := wireBytes s a.toNat n.toNat }.reply (valued n.toNat)) := by
  simp [exec, execOfDeserialize, hf, State.fits_iff, Nat.not_lt.mpr hn, ha, wireBytes_eq_memRead, valued, result]

theorem exec_ofRead_pastEnd {k : Word} (hk : s.osb.length ≤ k.toNat) :
    exec (.ofRead k) s = .next (s.reply { status := .errArg }) := by
  simp [exec, execOfRead, hf, List.getElem?_eq_none hk]

theorem exec_ofRead {k : Word} {b : Byte} (hb : s.osb[k.toNat]? = some b) :
    exec (.ofRead k) s = .next (s.reply (valued b.toNat)) := by
  simp [exec, execOfRead, hf, hb, valued]

/-! ### The four ends of OPT.DECODE (R110) -/

theorem exec_optDecode_pastEnd {k : Word} (hk : s.osb.length ≤ k.toNat) :
    exec (.optDecode k) s = .next (s.reply { status := .errArg }) := by
  simp [exec, execOptDecode, hf, List.getElem?_eq_none hk]

theorem exec_optDecode_pad1 {k : Word} (hk : s.osb[k.toNat]? = some s.params.pad1Type) :
    exec (.optDecode k) s = .next (s.reply
      { val := 1, val2 := BitVec.ofNat 64 (1 * 65536 + s.params.pad1Type.toNat * 256) }) := by
  simp [exec, execOptDecode, hf, hk, result, elementInfo_eq_ofNat]

theorem exec_optDecode_noLength {k : Word} {ty : Byte} (hty : s.osb[k.toNat]? = some ty)
    (h1 : ty ≠ s.params.pad1Type) (hk : s.osb.length ≤ k.toNat + 1) :
    exec (.optDecode k) s = .next (s.reply { status := .errTrunc }) := by
  simp [exec, execOptDecode, hf, hty, h1, List.getElem?_eq_none hk]

theorem exec_optDecode_shortPayload {k : Word} {ty n : Byte} (hty : s.osb[k.toNat]? = some ty)
    (h1 : ty ≠ s.params.pad1Type) (hn : s.osb[k.toNat + 1]? = some n)
    (hk : s.osb.length < k.toNat + 2 + n.toNat) :
    exec (.optDecode k) s = .next (s.reply { status := .errTrunc }) := by
  simp [exec, execOptDecode, hf, hty, h1, hn, hk]

theorem exec_optDecode_element {k : Word} {ty n : Byte} (hty : s.osb[k.toNat]? = some ty)
    (h1 : ty ≠ s.params.pad1Type) (hn : s.osb[k.toNat + 1]? = some n)
    (hk : k.toNat + 2 + n.toNat ≤ s.osb.length) :
    exec (.optDecode k) s = .next (s.reply
      { val := BitVec.ofNat 64 (2 + n.toNat)
        val2 := BitVec.ofNat 64
          ((if ty = s.params.padNType then 2 else 0) * 65536 + ty.toNat * 256 + n.toNat) }) := by
  have hkind : (if ty = s.params.padNType then 2 else 0 : BitVec 2).toNat =
      if ty = s.params.padNType then 2 else 0 := by
    split <;> rfl
  rw [← hkind, ← elementInfo_eq_ofNat]
  simp [exec, execOptDecode, hf, hty, h1, hn, Nat.not_lt.mpr hk, result]

end running

/-! ## OF.APPEND -/

/-- None of the causes of R203 and R104 refuses the append, and `pad` is the pad of its alignment. -/
structure AppendAccepted (s : State) (f o ty n : Byte) (a : Word) (pad : Nat) : Prop where
  running : s.fault = false
  isPad : IsPad s.osb.length f.toNat o.toNat pad
  not_reserved : ¬ (ty = s.params.pad1Type ∨ ty = s.params.padNType)
  payload_fits : a.toNat + n.toNat ≤ s.params.wbSize
  stream_fits : s.osb.length + pad + 2 + n.toNat ≤ s.params.osbCap

section append
variable {s : State} {f ty n : Byte} {a : Word}

theorem exec_ofAppend_zeroFactor (hf : s.fault = false) (h0 : f = 0) (o ty n : Byte) (a : Word) :
    exec (.ofAppend f o ty n a) s = .next (s.reply { status := .errArg }) := by
  simp [exec, execOfAppend, hf, h0]

theorem exec_ofAppend_reserved (hf : s.fault = false)
    (hty : ty = s.params.pad1Type ∨ ty = s.params.padNType) (f o n : Byte) (a : Word) :
    exec (.ofAppend f o ty n a) s = .next (s.reply { status := .errArg }) := by
  simp [exec, execOfAppend, hf, reservedTag, hty]

theorem exec_ofAppend_outside (hf : s.fault = false) (h0 : f ≠ 0#8)
    (hty : ¬ (ty = s.params.pad1Type ∨ ty = s.params.padNType))
    (ha : s.params.wbSize < a.toNat + n.toNat) (o : Byte) :
    exec (.ofAppend f o ty n a) s = .next (s.reply { status := .errBounds }) := by
  simp [exec, execOfAppend, hf, h0, reservedTag, hty, State.fits, Nat.not_le.mpr ha]

theorem exec_ofAppend_overflow {o : Byte} {pad : Nat} (hf : s.fault = false)
    (hty : ¬ (ty = s.params.pad1Type ∨ ty = s.params.padNType))
    (ha : a.toNat + n.toNat ≤ s.params.wbSize) (hpad : IsPad s.osb.length f.toNat o.toNat pad)
    (hcap : s.params.osbCap < s.osb.length + pad + 2 + n.toNat) :
    exec (.ofAppend f o ty n a) s = .next (s.reply { status := .errOverflow }) := by
  obtain rfl := eq_calcPad hpad.1 hpad.2
  simp [exec, execOfAppend, hf, ne_zero_of_isPad hpad, reservedTag, hty, State.fits, ha, hcap]

theorem exec_ofAppend_accepted {o : Byte} {pad : Nat} (h : AppendAccepted s f o ty n a pad) :
    exec (.ofAppend f o ty n a) s = .next (s.appendOption pad ty n a.toNat) := by
  obtain ⟨hf, hpad, hty, ha, hcap⟩ := h
  obtain rfl := eq_calcPad hpad.1 hpad.2
  simp [exec, execOfAppend, hf, ne_zero_of_isPad hpad, reservedTag, hty, State.fits, ha, Nat.not_lt.mpr hcap]

/-- An append that ended with OK was accepted: each cause of a refusal gives another status. -/
theorem appendAccepted_of_ok {o : Byte} {t : State} (h : exec (.ofAppend f o ty n a) s = .next t)
    (hok : t.resp.status = .ok) :
    ∃ pad, AppendAccepted s f o ty n a pad ∧ t = s.appendOption pad ty n a.toNat := by
  have hf : s.fault = false := by
    rcases unlessHalted_cases h with ⟨-, rfl⟩ | ⟨hf, -⟩
    · cases hok
    · exact hf
  have h0 : f ≠ 0 := fun h0 =>
    nomatch eq_ok_of_exec_reply (exec_ofAppend_zeroFactor hf h0 o ty n a) h hok
  have hty : ¬ (ty = s.params.pad1Type ∨ ty = s.params.padNType) := fun hty =>
    nomatch eq_ok_of_exec_reply (exec_ofAppend_reserved hf hty f o n a) h hok
  have ha : a.toNat + n.toNat ≤ s.params.wbSize := Nat.le_of_not_lt fun ha =>
    nomatch eq_ok_of_exec_reply (exec_ofAppend_outside hf h0 hty ha o) h hok
  have hpad := isPad_calcPad s.osb.length o.toNat h0
  have hcap := Nat.le_of_not_lt fun hcap =>
    nomatch eq_ok_of_exec_reply (exec_ofAppend_overflow hf hty ha hpad hcap) h hok
  have hacc : AppendAccepted s f o ty n a _ := ⟨hf, hpad, hty, ha, hcap⟩
  exact ⟨_, hacc, Host.Outcome.next.inj (h.symm.trans (exec_ofAppend_accepted hacc))⟩

/-- The stream after an append in the words of R104. -/
theorem completes_ofAppend {o : Byte} {pad : Nat} (h : AppendAccepted s f o ty n a pad) :
    Completes (.ofAppend f o ty n a) s [.stream]
      { val := BitVec.ofNat 64 (s.osb.length + pad), val2 := BitVec.ofNat 64 pad } []
      fun t => t.osb = s.osb ++ fillerOf s.params pad ++ [ty, n] ++ wireBytes s a.toNat n.toNat := by
  rw [← filler_eq_fillerOf, wireBytes_eq_memRead, List.append_assoc _ [ty, n]]
  exact completes_of_setStream (exec_ofAppend_accepted h)

@[simp] theorem State.appendOption_params (s : State) (pad : Nat) (ty n : Byte) (a : Nat) :
    (s.appendOption pad ty n a).params = s.params := rfl

/-- The appended option stands right after the filler, at the end of the stream. -/
theorem State.appendOption_osb_drop (s : State) (pad : Nat) (ty n : Byte) (a : Nat) :
    (s.appendOption pad ty n a).osb.drop (s.osb.length + pad) = optionBytes ty n (s.memRead a n.toNat) :=
  List.drop_left' (by simp)

theorem State.appendOption_osb_length (s : State) (pad : Nat) (ty n : Byte) (a : Nat) :
    (s.appendOption pad ty n a).osb.length = s.osb.length + pad + 2 + n.toNat := by
  simp only [State.appendOption, State.reply_osb, List.length_append, filler_length, optionBytes_length,
    State.memRead_length]
  omega

theorem State.appendOption_osb_tag (s : State) (pad : Nat) (ty n : Byte) (a : Nat) :
    (s.appendOption pad ty n a).osb[s.osb.length + pad]? = some ty := by
  rw [← List.head?_drop, s.appendOption_osb_drop]
  rfl

theorem State.appendOption_osb_olen (s : State) (pad : Nat) (ty n : Byte) (a : Nat) :
    (s.appendOption pad ty n a).osb[s.osb.length + pad + 1]? = some n := by
  rw [← List.getElem?_drop, s.appendOption_osb_drop]
  rfl

theorem State.appendOption_osb_payload (s : State) (pad : Nat) (ty n : Byte) (a : Nat) :
    (s.appendOption pad ty n a).osb.drop (s.osb.length + pad + 2) = wireBytes s a n.toNat := by
  rw [← List.drop_drop, s.appendOption_osb_drop, wireBytes_eq_memRead]
  rfl

/-- With the parameters of R1 the index of the option is answered exactly (30_encoding.md R66). -/
theorem AppendAccepted.val_toNat {o : Byte} {pad : Nat} (hp : s.params.wf)
    (h : AppendAccepted s f o ty n a pad) :
    (s.appendOption pad ty n a.toNat).resp.val.toNat = s.osb.length + pad := by
  obtain ⟨-, -, -, -, hcap, -⟩ := hp
  have hfits := h.stream_fits
  exact toNat_result (by omega)

end append

end Sys2Proof.Machine

namespace Sys2Proof.Proofs

open Sys2Proof.Machine

/-- Settles O21: `calcPad` is the pad. -/
theorem calcPad : Obligations.CalcPad := fun _ _ _ hf =>
  ⟨encodes_encodeFields _,
    fun h0 => completes_of_reply (exec_ofCalcpad_zeroFactor hf h0 _),
    fun h0 => ⟨_, isPad_calcPad _ _ h0, completes_of_reply (exec_ofCalcpad hf h0 _)⟩⟩

/-- Settles O22: the checks in the order of R104, each with its refusal, then the effect. -/
theorem ofAppend : Obligations.OfAppend := by
  refine fun s f o ty n a hf => ⟨encodes_encodeFields _, ?_, ?_, fun h0 h1 hN => ⟨?_, fun ha pad hpad => ?_⟩⟩
  · exact fun h0 => completes_of_reply (exec_ofAppend_zeroFactor hf h0 o ty n a)
  · exact fun _ hty => completes_of_reply (exec_ofAppend_reserved hf hty f o n a)
  · exact fun ha => completes_of_reply (exec_ofAppend_outside hf h0 (not_or.mpr ⟨h1, hN⟩) ha o)
  · exact ⟨fun hcap => completes_of_reply (exec_ofAppend_overflow hf (not_or.mpr ⟨h1, hN⟩) ha hpad hcap),
      fun hcap => completes_ofAppend ⟨hf, hpad, not_or.mpr ⟨h1, hN⟩, ha, hcap⟩⟩

/-- Settles O23: the filler ends where the pad's congruence holds, and the option's type byte comes next. -/
theorem appendAlignment : Obligations.AppendAlignment := by
  intro s t f o ty n a hp h hok
  obtain ⟨pad, hacc, rfl⟩ := appendAccepted_of_ok h hok
  rw [hacc.val_toNat hp, Nat.add_right_comm]
  exact ⟨s.appendOption_osb_tag pad ty n a.toNat, hacc.isPad.2⟩

/-- Settles O24: `of_size` is the length rounded up to a multiple of 4. -/
theorem ofClearSize : Obligations.OfClearSize := fun _ hf =>
  ⟨encodes_encodeFields _, encodes_encodeFields _, completes_of_setStream (exec_ofClear hf),
    completes_of_reply (exec_ofSize hf)⟩

/-- Settles O25: the bounds test, then the store of the emitted stream. -/
theorem ofSerialize : Obligations.OfSerialize := fun _ _ hf =>
  ⟨encodes_encodeFields _,
    fun ha => completes_of_reply (exec_ofSerialize_outside hf ha),
    fun ha => completes_of_store (exec_ofSerialize_inside hf ha)⟩

/-- Settles O26: the capacity test, then the fault, then the load. -/
theorem ofDeserialize : Obligations.OfDeserialize := fun _ a _ hf =>
  ⟨encodes_encodeFields _,
    fun hn => completes_of_reply (exec_ofDeserialize_overflow hf a hn),
    fun hn ha => faults_of_raiseWireBounds (exec_ofDeserialize_outside hf hn ha),
    fun hn ha => completes_of_setStream (exec_ofDeserialize_inside hf hn ha)⟩

/-- Settles O27: the index test, then the byte. -/
theorem ofRead : Obligations.OfRead := fun _ _ hf =>
  ⟨encodes_encodeFields _,
    fun hk => completes_of_reply (exec_ofRead_pastEnd hf hk),
    fun _ hb => completes_of_reply (exec_ofRead hf hb)⟩

/-- Settles O28: each end of R110's chain only replies. -/
theorem optDecode : Obligations.OptDecode := fun _ _ hf =>
  ⟨encodes_encodeFields _,
    fun hk => completes_of_reply (exec_optDecode_pastEnd hf hk),
    fun hk => completes_of_reply (exec_optDecode_pad1 hf hk),
    fun _ hty h1 =>
      ⟨fun hk => completes_of_reply (exec_optDecode_noLength hf hty h1 hk),
        fun _ hn =>
          ⟨fun hk => completes_of_reply (exec_optDecode_shortPayload hf hty h1 hn hk),
            fun hk => completes_of_reply (exec_optDecode_element hf hty h1 hn hk)⟩⟩⟩

/-- Settles O29: at the answered index stand the tag, the length and the payload, up to the end of the stream, and
the tag is neither filler's. -/
theorem appendThenDecode : Obligations.AppendThenDecode := by
  intro s t f o ty n a k hp h hok hk
  obtain ⟨pad, hacc, rfl⟩ := appendAccepted_of_ok h hok
  obtain ⟨hty1, htyN⟩ := not_or.mp hacc.not_reserved
  have hidx : k.toNat = s.osb.length + pad := by
    rw [← hacc.val_toNat hp, hk, BitVec.toNat_setWidth_of_le (by decide)]
  have htag := s.appendOption_osb_tag pad ty n a.toNat
  have hlen := s.appendOption_osb_olen pad ty n a.toNat
  have hpayload := s.appendOption_osb_payload pad ty n a.toNat
  have hend := (s.appendOption_osb_length pad ty n a.toNat).ge
  rw [← hidx] at htag hlen hpayload hend
  have hdec := exec_optDecode_element (s := s.appendOption pad ty n a.toNat) hacc.running htag hty1 hlen hend
  rw [State.appendOption_params, if_neg htyN, Nat.zero_mul, Nat.zero_add] at hdec
  exact ⟨completes_of_reply hdec, hpayload⟩

end Sys2Proof.Proofs

/-!
The statements of 42_routing_header.md: the H registers (R120, R121), the size of the RoutingHeader (R122), its way
to WB and back (R123, R124), and that a serialized header deserializes to itself (R125).
-/

namespace Sys2Proof.Machine

open Sys2Proof.Spec

/-! ## The FixedHeader's bytes and numbers -/

/-- A concatenation as a number: the left part counts in units of the right part's width. -/
theorem toNat_append_eq_mul_add {m n : Nat} (x : BitVec m) (y : BitVec n) :
    (x ++ y).toNat = x.toNat * 2 ^ n + y.toNat := by
  rw [BitVec.toNat_append, ← Nat.shiftLeft_add_eq_or_of_lt y.isLt, Nat.shiftLeft_eq]

/-- HDR.GET's `val`: each register in its bit positions of R121. -/
theorem toNat_append_hdr (h : Header) :
    (h.nextHeader ++ h.messageType ++ h.sourceId ++ h.destId ++ h.payloadLen).toNat =
      h.nextHeader.toNat * 2 ^ 56 + h.messageType.toNat * 2 ^ 48 + h.sourceId.toNat * 2 ^ 32 +
        h.destId.toNat * 2 ^ 16 + h.payloadLen.toNat := by
  simp only [toNat_append_eq_mul_add]
  ring

theorem ofBe16_toNat (hi lo : Byte) : (ofBe16 hi lo).toNat = hi.toNat * 256 + lo.toNat :=
  toNat_append_eq_mul_add hi lo

/-- The high byte is the quotient by 256, the low byte the rest (20_memory.md R43). -/
theorem be16_eq_div_mod (v : Half) :
    be16 v = [BitVec.ofNat 8 (v.toNat / 256), BitVec.ofNat 8 (v.toNat % 256)] := by
  simp [be16, BitVec.toNat_eq, Nat.shiftRight_eq_div_pow]

/-- Joining two bytes and splitting the field gives them back (20_memory.md R43). -/
theorem be16_ofBe16 (hi lo : Byte) : be16 (ofBe16 hi lo) = [hi, lo] := by
  have hhi : (hi.toNat * 256 + lo.toNat) / 256 = hi.toNat := by omega
  have hlo : (hi.toNat * 256 + lo.toNat) % 256 = lo.toNat := by omega
  rw [be16_eq_div_mod, ofBe16_toNat, hhi, hlo, BitVec.ofNat_toNat, BitVec.ofNat_toNat]
  rfl

theorem Header.bytes_eq_headerBytes (h : Header) : h.bytes = headerBytes h := by
  simp only [Header.bytes, be16_eq_div_mod]
  rfl

theorem State.headerAt_payloadLen (s : State) (a : Nat) :
    (s.headerAt a).payloadLen.toNat = declaredLen s a :=
  ofBe16_toNat _ _

/-- The header read at an address has the bytes that stand there (R71). -/
theorem State.headerBytes_headerAt (s : State) (a : Nat) : headerBytes (s.headerAt a) = wireBytes s a 8 := by
  rw [← Header.bytes_eq_headerBytes]
  simp only [Header.bytes, State.headerAt, be16_ofBe16]
  rfl

/-! ## Ranges of WB -/

/-- A range of WB is its first bytes, then the rest. -/
theorem wireBytes_add (s : State) (a m n : Nat) :
    wireBytes s a (m + n) = wireBytes s a m ++ wireBytes s (a + m) n := by
  simp [wireBytes, List.range_add, Nat.add_assoc]

theorem wireBytes_length (s : State) (a n : Nat) : (wireBytes s a n).length = n := by
  simp [wireBytes]

theorem State.fits_eq_false_iff (s : State) {a n : Nat} : s.fits a n = false ↔ s.params.wbSize < a + n := by
  rw [← Bool.not_eq_true, s.fits_iff, Nat.not_le]

/-! ## The emitted stream -/

/-- The trailing filler brings the stream to its padded size (R79). -/
theorem emitted_length (p : Params) (osb : List Byte) : (emitted p osb).length = roundUp4 osb.length := by
  have hle : osb.length ≤ roundUp4 osb.length := by unfold roundUp4; omega
  rw [emitted, List.length_append, ← filler_eq_fillerOf, filler_length, Nat.add_sub_cancel' hle]

theorem roundUp4_roundUp4 (n : Nat) : roundUp4 (roundUp4 n) = roundUp4 n := by
  unfold roundUp4
  omega

/-- An emitted stream is emitted again as it stands: it needs no further filler. -/
theorem emitted_emitted (p : Params) (osb : List Byte) : emitted p (emitted p osb) = emitted p osb := by
  rw [emitted, emitted_length, roundUp4_roundUp4, Nat.sub_self]
  exact List.append_nil _

/-- The RoutingHeader on the wire has the size of R122. -/
theorem routingHeader_length (h : Header) (p : Params) (osb : List Byte) :
    (headerBytes h ++ emitted p osb).length = 8 + roundUp4 osb.length := by
  rw [List.length_append, emitted_length]
  rfl

/-! ## Frames -/

/-- A command that replaces the H registers and replies changes nothing else. -/
theorem frame_setHeader (s : State) (h : Header) (r : Response) (evs : List Event) :
    Frame [.header] s ({ s with hdr := h }.reply r evs) := by
  intro p hp
  cases p <;> simp_all [Part.same, State.readByte]

/-- A command that replaces the H registers and OSB and replies changes nothing else. -/
theorem frame_setHeaderStream (s : State) (h : Header) (l : List Byte) (r : Response) (evs : List Event) :
    Frame [.header, .stream] s ({ s with hdr := h, osb := l }.reply r evs) := by
  intro p hp
  cases p <;> simp_all [Part.same, State.readByte]

/-! ## What each command answers -/

section running
variable {s : State} (hf : s.fault = false)
include hf

theorem exec_hdrSet (sid did plen : Half) (nh mt : Byte) :
    exec (.hdrSet sid did plen nh mt) s = .next ({ s with hdr := ⟨nh, mt, sid, did, plen⟩ }.reply {}) := by
  simp [exec, execHdrSet, hf]

theorem exec_hdrGet :
    exec .hdrGet s = .next (s.reply
      (valued (s.hdr.nextHeader.toNat * 2 ^ 56 + s.hdr.messageType.toNat * 2 ^ 48 +
        s.hdr.sourceId.toNat * 2 ^ 32 + s.hdr.destId.toNat * 2 ^ 16 + s.hdr.payloadLen.toNat))) := by
  rw [← toNat_append_hdr, valued, BitVec.ofNat_toNat]
  simp [exec, execHdrGet, hf]

theorem exec_hdrSize : exec .hdrSize s = .next (s.reply (valued (8 + roundUp4 s.osb.length))) := by
  simp [exec, execHdrSize, hf, State.headerSize, fixedSize, s.streamSize_eq_roundUp4, valued, result]

theorem exec_hdrSerialize_outside {a : Word} (ha : s.params.wbSize < a.toNat + (8 + roundUp4 s.osb.length)) :
    exec (.hdrSerialize a) s = .next (s.reply { status := .errBounds }) := by
  simp [exec, execHdrSerialize, hf, State.fits_iff, State.headerSize, fixedSize, s.streamSize_eq_roundUp4,
    Nat.not_le.mpr ha]

theorem exec_hdrSerialize_inside {a : Word} (ha : a.toNat + (8 + roundUp4 s.osb.length) ≤ s.params.wbSize) :
    exec (.hdrSerialize a) s =
      .next ((s.memWrite a.toNat (headerBytes s.hdr ++ emitted s.params s.osb)).reply
        (valued (8 + roundUp4 s.osb.length))) := by
  simp [exec, execHdrSerialize, hf, State.fits_iff, State.headerSize, fixedSize, s.streamSize_eq_roundUp4,
    s.emittedStream_eq_emitted, Header.bytes_eq_headerBytes, ha, valued, result]

/-! ### The checks of HDR.DESERIALIZE in the order of R124 -/

theorem exec_hdrDeserialize_noHeader {a : Word} (ha : s.params.wbSize < a.toNat + 8) :
    exec (.hdrDeserialize a) s = .next (s.raiseWireBounds a) := by
  have hfit : s.fits a.toNat 8 = false := s.fits_eq_false_iff.mpr ha
  simp [exec, execHdrDeserialize, hf, fixedSize, hfit]

theorem exec_hdrDeserialize_overflow {a : Word} (ha : a.toNat + 8 ≤ s.params.wbSize)
    (hn : s.params.osbCap < declaredLen s a.toNat) :
    exec (.hdrDeserialize a) s = .next (s.reply { status := .errOverflow }) := by
  have hfit : s.fits a.toNat 8 = true := (s.fits_iff _ _).mpr ha
  simp [exec, execHdrDeserialize, hf, fixedSize, hfit, s.headerAt_payloadLen, hn]

theorem exec_hdrDeserialize_outside {a : Word} (ha : a.toNat + 8 ≤ s.params.wbSize)
    (hn : declaredLen s a.toNat ≤ s.params.osbCap)
    (hend : s.params.wbSize < a.toNat + 8 + declaredLen s a.toNat) :
    exec (.hdrDeserialize a) s = .next (s.raiseWireBounds a) := by
  have hfit : s.fits a.toNat 8 = true := (s.fits_iff _ _).mpr ha
  have hfit' : s.fits a.toNat (8 + declaredLen s a.toNat) = false :=
    s.fits_eq_false_iff.mpr (Nat.add_assoc _ _ _ ▸ hend)
  simp [exec, execHdrDeserialize, hf, fixedSize, hfit, hfit', s.headerAt_payloadLen, Nat.not_lt.mpr hn]

theorem exec_hdrDeserialize_inside {a : Word} (hn : declaredLen s a.toNat ≤ s.params.osbCap)
    (hend : a.toNat + 8 + declaredLen s a.toNat ≤ s.params.wbSize) :
    exec (.hdrDeserialize a) s =
      .next ({ s with hdr := s.headerAt a.toNat, osb := wireBytes s (a.toNat + 8) (declaredLen s a.toNat) }.reply
        (valued (8 + declaredLen s a.toNat))) := by
  have hfit : s.fits a.toNat 8 = true := (s.fits_iff _ _).mpr ((Nat.le_add_right _ _).trans hend)
  have hfit' : s.fits a.toNat (8 + declaredLen s a.toNat) = true :=
    (s.fits_iff _ _).mpr (Nat.add_assoc _ _ _ ▸ hend)
  simp [exec, execHdrDeserialize, hf, fixedSize, hfit, hfit', s.headerAt_payloadLen, Nat.not_lt.mpr hn,
    wireBytes_eq_memRead, valued, result]

/-! ### Storing and loading a whole RoutingHeader -/

theorem completes_hdrSerialize {a : Word} (ha : a.toNat + (8 + roundUp4 s.osb.length) ≤ s.params.wbSize) :
    Completes (.hdrSerialize a) s [.wire] (valued (8 + roundUp4 s.osb.length)) []
      fun t => Stores s t a.toNat (headerBytes s.hdr ++ emitted s.params s.osb) :=
  completes_of_store (exec_hdrSerialize_inside hf ha)

/-- Deserializing where the bytes of a header and of its whole stream stand loads exactly these two. -/
theorem exec_hdrDeserialize_of_wireBytes {a : Word} {h : Header} {l : List Byte} {n : Nat}
    (hw : wireBytes s a.toNat (8 + n) = headerBytes h ++ l) (hlen : h.payloadLen.toNat = n)
    (hcap : n ≤ s.params.osbCap) (hend : a.toNat + (8 + n) ≤ s.params.wbSize) :
    ∃ v, exec (.hdrDeserialize a) s = .next v ∧ v.resp = valued (8 + n) ∧ v.hdr = h ∧ v.osb = l ∧
      v.fault = false ∧ v.params = s.params := by
  rw [wireBytes_add] at hw
  obtain ⟨hfixed, hstream⟩ := List.append_inj hw (wireBytes_length s a.toNat 8)
  have hhdr : s.headerAt a.toNat = h := State.headerAt_eq <| by
    rw [← wireBytes_eq_memRead, hfixed, Header.bytes_eq_headerBytes]
  have hdecl : declaredLen s a.toNat = n := by rw [← s.headerAt_payloadLen, hhdr, hlen]
  subst hdecl
  exact ⟨_, exec_hdrDeserialize_inside hf hcap (by rwa [Nat.add_assoc]), rfl, hhdr, hstream, hf, rfl⟩

end running

end Sys2Proof.Machine

namespace Sys2Proof.Proofs

open Sys2Proof.Machine Sys2Proof.Spec

/-- Settles O30: one writes the registers, the other reads them as one number. -/
theorem hdrSetGet : Obligations.HdrSetGet := fun s _ _ _ _ _ hf =>
  ⟨encodes_encodeFields _, encodes_encodeFields _,
    ⟨_, exec_hdrSet hf _ _ _ _ _, rfl, rfl, frame_setHeader s _ _ _, rfl, rfl, rfl, rfl, rfl⟩,
    completes_of_reply (exec_hdrGet hf)⟩

/-- Settles O31: the size depends on the stream alone. -/
theorem hdrSize : Obligations.HdrSize := fun _ hf =>
  ⟨encodes_encodeFields _, completes_of_reply (exec_hdrSize hf)⟩

/-- Settles O32: the bounds test, then the store of the header bytes and the emitted stream. -/
theorem hdrSerialize : Obligations.HdrSerialize := fun _ _ hf =>
  ⟨encodes_encodeFields _,
    fun ha => completes_of_reply (exec_hdrSerialize_outside hf ha),
    fun ha => completes_hdrSerialize hf ha⟩

/-- Settles O33: the checks in the order of R124, then the load of the header and the declared stream. -/
theorem hdrDeserialize : Obligations.HdrDeserialize := fun s a hf =>
  ⟨encodes_encodeFields _,
    fun ha => faults_of_raiseWireBounds (exec_hdrDeserialize_noHeader hf ha),
    fun ha =>
      ⟨fun hn => completes_of_reply (exec_hdrDeserialize_overflow hf ha hn),
        fun hn =>
          ⟨fun hend => faults_of_raiseWireBounds (exec_hdrDeserialize_outside hf ha hn hend),
            fun hend => ⟨_, exec_hdrDeserialize_inside hf hn hend, rfl, rfl, frame_setHeaderStream s _ _ _ _,
              s.headerBytes_headerAt a.toNat, s.headerAt_payloadLen a.toNat, rfl⟩⟩⟩⟩

/-- Settles O34: the stored bytes are a header and the whole stream it declares, so they load as they were stored;
the loaded stream needs no filler, so its size and its bytes stay the same. -/
theorem headerRoundTrip : Obligations.HeaderRoundTrip := by
  intro s a hf hlen hcap ha
  obtain ⟨t, hexec, -, -, -, hstored, -⟩ := completes_hdrSerialize hf ha
  rw [routingHeader_length] at hstored
  refine ⟨t, hexec, fun u hfu hp hw => ?_⟩
  rw [hstored] at hw ⊢
  obtain ⟨v, hload, hresp, hhdr, hosb, hfv, hpv⟩ :=
    exec_hdrDeserialize_of_wireBytes hfu hw hlen (hp ▸ hcap) (hp ▸ ha)
  have hsize : v.osb.length = roundUp4 s.osb.length := hosb ▸ emitted_length s.params s.osb
  have hpadded : roundUp4 v.osb.length = roundUp4 s.osb.length := by rw [hsize, roundUp4_roundUp4]
  have hagain : emitted v.params v.osb = emitted s.params s.osb := by rw [hpv, hp, hosb, emitted_emitted]
  refine ⟨v, hload, hresp, hhdr, hosb, hsize, ?_, fun b hb => ?_⟩
  · rw [← hpadded]
    exact completes_of_reply (exec_hdrSize hfv)
  · rw [← hpadded, ← hhdr, ← hagain]
    exact completes_hdrSerialize hfv (by rwa [hpv, hp, hpadded])

end Sys2Proof.Proofs

/-!
The statements of 43_maintenance_buffer.md: each maintenance command (R132 to R143), with its siblings of the
passive buffer and the queue where they do the same (FIND and the register setters), the order and the length of
the three stores over all commands (R144, R145), and capacity eviction (R145).
-/

namespace Sys2Proof.Machine

open Sys2Proof.Spec

/-! ## The clock test -/

theorem nowLegal_eq_false {now : Dword} (h : ¬ LegalNow now) : nowLegal now = false :=
  Bool.eq_false_iff.mpr fun hn => h ((nowLegal_iff now).mp hn)

section clock
variable {s k : State} {i : Instr} {now : Dword} (hf : s.fault = false)
include hf

/-- A command that opens with the clock test refuses an illegal clock (60_exceptions.md R205). -/
theorem refuses_of_illegalNow (hn : ¬ LegalNow now)
    (hi : exec i s = s.unlessHalted (if nowLegal now then k else s.raise .errArg)) : Refuses i s .errArg :=
  completes_of_reply <| by simp [hi, hf, nowLegal_eq_false hn]

/-- With a legal clock it ends as after the test. -/
theorem exec_of_legalNow (hn : LegalNow now)
    (hi : exec i s = s.unlessHalted (if nowLegal now then k else s.raise .errArg)) : exec i s = .next k := by
  simp [hi, hf, (nowLegal_iff now).mpr hn]

end clock

/-! ## Scans in the words of the statements -/

section scan
variable {α : Type} {P : α → Prop} {p : α → Bool} {l rest : List α} {e : α} (hp : ∀ x, p x = true ↔ P x)
include hp

theorem scan_of_firstMatch (h : FirstMatch P l e rest) :
    l.find? p = some e ∧ l.eraseP p = rest ∧ l.any p = true := by
  obtain ⟨front, back, rfl, hfront, he, rfl⟩ := h
  exact scan_of_split (fun x hx => Bool.eq_false_iff.mpr fun hpx => hfront x hx ((hp x).mp hpx)) ((hp e).mpr he)

theorem any_eq_true_of_exists (h : ∃ x ∈ l, P x) : l.any p = true := by
  simpa [hp] using h

theorem any_eq_false_of_forall_not (h : ∀ x ∈ l, ¬ P x) : l.any p = false := by
  simpa [← Bool.not_eq_true, hp] using h

theorem find?_eq_none_of_forall_not (h : ∀ x ∈ l, ¬ P x) : l.find? p = none := by
  simpa [hp] using h

/-- A command that answers whether an entry passes the test is a membership test. -/
theorem completes_of_any {i : Instr} {s : State} (h : exec i s = .next (s.reply (flagged (l.any p)))) :
    ((∃ x ∈ l, P x) → Completes i s [] (flagged true) [] fun _ => True) ∧
    ((∀ x ∈ l, ¬ P x) → Completes i s [] (flagged false) [] fun _ => True) :=
  ⟨fun hx => any_eq_true_of_exists hp hx ▸ completes_of_reply h,
    fun hx => any_eq_false_of_forall_not hp hx ▸ completes_of_reply h⟩

end scan

/-! ## The tests of the entries -/

theorem MaintEntry.allEqual_iff (e c : MaintEntry) : e.allEqual c = true ↔ SixEqual e c := decide_eq_true_iff

theorem MaintEntry.hasNextHop_iff {nhop : Word} (e : MaintEntry) : e.hasNextHop nhop = true ↔ e.nhop = nhop :=
  decide_eq_true_iff

theorem QueueEntry.hasNextHop_iff {nhop : Word} (e : QueueEntry) : e.hasNextHop nhop = true ↔ e.nhop = nhop :=
  decide_eq_true_iff

/-- The lookup test compares the field that PB_LOOKUP_KEY names (44_passive_buffer.md R164). -/
theorem PassiveEntry.hasKey_iff {p : Params} {key : Word} (e : PassiveEntry) :
    e.hasKey p.pbLookupKey key = true ↔ lookupField p e = key := by
  unfold PassiveEntry.hasKey lookupField
  cases p.pbLookupKey <;> exact decide_eq_true_iff

/-! ## The maintenance sweep -/

/-- The sweep leaves the live entries (R130). -/
theorem State.mbLive_eq (s : State) (now : Dword) : s.mbLive now = mbLiveAt s now :=
  List.filter_congr fun e _ => by
    rw [Bool.eq_iff_iff, Bool.not_eq_true', decide_eq_true_iff]
    exact pastDeadline_eq_false

theorem State.mbPurge_mb_eq (s : State) (now : Dword) : (s.mbPurge now).mb = mbLiveAt s now :=
  s.mbLive_eq now

/-- What the sweep removes and what it leaves make up the buffer. -/
theorem State.mbExpiredCount_eq (s : State) (now : Dword) :
    s.mbExpiredCount now = s.mb.length - (mbLiveAt s now).length := by
  have hsplit := s.mb.length_eq_countP_add_countP (·.expired now)
  have hlive : (mbLiveAt s now).length = s.mb.countP fun e => decide ¬ e.expired now = true := by
    rw [← s.mbLive_eq, State.mbLive, ← List.countP_eq_length_filter]
    simp
  rw [State.mbExpiredCount, hlive]
  omega

/-- A command that replaces MB and replies changes nothing else. -/
theorem completes_of_setMaint {i : Instr} {s : State} {l : List MaintEntry} {r : Response}
    (h : exec i s = .next ({ s with mb := l }.reply r)) : Completes i s [.maint] r [] fun t => t.mb = l :=
  ⟨_, h, rfl, rfl, frame_setMaint s l r [], rfl⟩

/-- A command that sweeps and then only replies leaves the live entries. -/
theorem completes_of_mbPurge {i : Instr} {s : State} {now : Dword} {r : Response}
    (h : exec i s = .next ((s.mbPurge now).reply r)) :
    Completes i s [.maint] r [] fun t => t.mb = mbLiveAt s now :=
  s.mbLive_eq now ▸ completes_of_setMaint h

/-! ## What follows the sweep -/

theorem mbAdmit_of_duplicate {s : State} {c : MaintEntry} (h : ∃ e ∈ s.mb, SixEqual e c) :
    s.mbAdmit c = s.reply (flagged false) := by
  simp [State.mbAdmit, any_eq_true_of_exists (fun e => e.allEqual_iff c) h, flagged]

theorem mbAdmit_of_new {s : State} {c : MaintEntry} (h : ∀ e ∈ s.mb, ¬ SixEqual e c) :
    s.mbAdmit c = { s with mb := makeRoom s.mbMaxLen s.mb ++ [c] }.reply (flagged true) := by
  simp [State.mbAdmit, any_eq_false_of_forall_not (fun e => e.allEqual_iff c) h, flagged]

theorem mbTake_of_firstMatch {s : State} {nhop : Word} {e : MaintEntry} {rest : List MaintEntry}
    (h : FirstMatch (fun x : MaintEntry => x.nhop = nhop) s.mb e rest) :
    s.mbTake nhop = { s with mb := rest }.reply { flag := true, entry := some (.maint e) } := by
  obtain ⟨hfind, herase, -⟩ := scan_of_firstMatch MaintEntry.hasNextHop_iff h
  simp [State.mbTake, hfind, herase]

theorem mbTake_of_none {s : State} {nhop : Word} (h : ∀ e ∈ s.mb, e.nhop ≠ nhop) :
    s.mbTake nhop = s.reply (flagged false) := by
  simp [State.mbTake, find?_eq_none_of_forall_not MaintEntry.hasNextHop_iff h, flagged]

/-- MB.DROPNH after its sweep counts what it removes (R135). -/
theorem mbDropAll_eq (s : State) (nhop : Word) {n : Nat}
    (hn : n = (s.mb.filter fun e => e.nhop == nhop).length) :
    s.mbDropAll nhop = { s with mb := s.mb.filter fun e => e.nhop != nhop }.reply
      { flag := decide (0 < n), val := BitVec.ofNat 64 n } := by
  have hkey : MaintEntry.hasNextHop nhop = fun e => e.nhop == nhop := by
    funext e
    rw [Bool.eq_iff_iff, e.hasNextHop_iff, beq_iff_eq]
  have hany : s.mb.any (fun e => e.nhop == nhop) = decide (0 < n) := by
    rw [Bool.eq_iff_iff, decide_eq_true_iff, List.any_eq_true, hn, ← List.countP_eq_length_filter,
      List.countP_pos_iff]
  simp only [State.mbDropAll, hkey, hany, List.countP_eq_length_filter, ← hn]
  rfl

/-- A predicate whose test is `P` removes the first entry that satisfies `P` (R146). -/
theorem consumesFirst_of_exec {i : Instr} {s : State} {P : MaintEntry → Prop} [DecidablePred P]
    (h : exec i s = .next (s.mbConsume fun e => decide (P e))) : ConsumesFirst i s P := by
  have hP : ∀ e, decide (P e) = true ↔ P e := fun _ => decide_eq_true_iff
  refine ⟨fun e rest hmatch => completes_of_setMaint ?_, fun hnone => completes_of_reply ?_⟩
  · obtain ⟨-, herase, hany⟩ := scan_of_firstMatch hP hmatch
    simp [h, State.mbConsume, hany, herase, flagged]
  · simp [h, State.mbConsume, any_eq_false_of_forall_not hP hnone, flagged]

/-! ## What each command answers -/

theorem durationBits_eq (hi lo : Word) : durationBits hi lo = BitVec.ofNat 64 (hi.toNat * 2 ^ 32 + lo.toNat) := by
  rw [← toNat_append_eq_mul_add, BitVec.ofNat_toNat]
  rfl

/-- Room is made by removing the front entry of a full buffer, and only there. -/
theorem makeRoom_of_full {α : Type} {maxLen : Word} {l : List α} (h : maxLen.toNat ≤ l.length) :
    makeRoom maxLen l = l.drop 1 := by
  rw [makeRoom, if_pos h, List.drop_one]

theorem makeRoom_of_room {α : Type} {maxLen : Word} {l : List α} (h : l.length < maxLen.toNat) :
    makeRoom maxLen l = l :=
  if_neg (Nat.not_le.mpr h)

section running
variable {s : State} (hf : s.fault = false)
include hf

theorem exec_mbEnq {now : Dword} (hn : LegalNow now) (seg : Byte) (pkt our nhop src dst : Word) (ack : Half) :
    exec (.mbEnq seg now pkt our nhop src dst ack) s =
      .next ((s.mbPurge now).mbAdmit
        ⟨pkt, our, nhop, src, dst, ack, seg, (now.toNat : Int) + s.mbTimeout.toInt⟩) :=
  exec_of_legalNow hf hn rfl

theorem exec_mbEnq_new {now : Dword} (hn : LegalNow now) {seg : Byte} {pkt our nhop src dst : Word} {ack : Half}
    {c : MaintEntry} (hc : c = ⟨pkt, our, nhop, src, dst, ack, seg, (now.toNat : Int) + s.mbTimeout.toInt⟩)
    (hnew : ∀ e ∈ mbLiveAt s now, ¬ SixEqual e c) :
    exec (.mbEnq seg now pkt our nhop src dst ack) s =
      .next ({ s with mb := makeRoom s.mbMaxLen (mbLiveAt s now) ++ [c] }.reply (flagged true)) := by
  rw [← s.mbPurge_mb_eq] at hnew ⊢
  subst hc
  rw [exec_mbEnq hf hn, mbAdmit_of_new hnew]
  rfl

theorem exec_mbDeq {now : Dword} (hn : LegalNow now) (nhop : Word) :
    exec (.mbDeq now nhop) s = .next ((s.mbPurge now).mbTake nhop) :=
  exec_of_legalNow hf hn rfl

theorem exec_mbFind (key : Word) :
    exec (.mbFind key) s = .next (s.reply (flagged (s.mb.any (MaintEntry.hasNextHop key)))) :=
  unlessHalted_running hf _

theorem exec_pbFind (key : Word) :
    exec (.pbFind key) s = .next (s.reply (flagged (s.pb.any (PassiveEntry.hasKey s.params.pbLookupKey key)))) :=
  unlessHalted_running hf _

theorem exec_nqFind (key : Word) :
    exec (.nqFind key) s = .next (s.reply (flagged (s.nq.any (QueueEntry.hasNextHop key)))) :=
  unlessHalted_running hf _

theorem exec_mbDropnh {now : Dword} (hn : LegalNow now) (nhop : Word) :
    exec (.mbDropnh now nhop) s = .next ((s.mbPurge now).mbDropAll nhop) :=
  exec_of_legalNow hf hn rfl

theorem exec_mbPurge {now : Dword} (hn : LegalNow now) :
    exec (.mbPurge now) s = .next ((s.mbPurge now).reply (valued (s.mb.length - (mbLiveAt s now).length))) := by
  rw [← s.mbExpiredCount_eq]
  exact exec_of_legalNow hf hn rfl

theorem exec_mbSize {now : Dword} (hn : LegalNow now) :
    exec (.mbSize now) s = .next ((s.mbPurge now).reply (valued (mbLiveAt s now).length)) := by
  rw [← s.mbLive_eq]
  exact exec_of_legalNow hf hn rfl

/-! ### The bound setters -/

theorem exec_mbSetmaxlen_inRange {n : Word} (h : 1 ≤ n.toNat ∧ n.toNat ≤ s.params.mbSlots) :
    exec (.mbSetmaxlen n) s = .next ({ s with mbMaxLen := n }.reply {}) := by
  simp [exec, execMbSetmaxlen, hf, Nat.not_lt.mpr h.1, Nat.not_lt.mpr h.2]

theorem exec_mbSetmaxlen_outside {n : Word} (h : n.toNat = 0 ∨ s.params.mbSlots < n.toNat) :
    exec (.mbSetmaxlen n) s = .next (s.reply { status := .errArg }) := by
  rw [← Nat.lt_one_iff] at h
  simp only [exec, execMbSetmaxlen, unlessHalted_running hf, gt_iff_lt, if_pos h, State.raise_errArg]

theorem exec_pbSetmaxlen_inRange {n : Word} (h : 1 ≤ n.toNat ∧ n.toNat ≤ s.params.pbSlots) :
    exec (.pbSetmaxlen n) s = .next ({ s with pbMaxLen := n }.reply {}) := by
  simp [exec, execPbSetmaxlen, hf, Nat.not_lt.mpr h.1, Nat.not_lt.mpr h.2]

theorem exec_pbSetmaxlen_outside {n : Word} (h : n.toNat = 0 ∨ s.params.pbSlots < n.toNat) :
    exec (.pbSetmaxlen n) s = .next (s.reply { status := .errArg }) := by
  rw [← Nat.lt_one_iff] at h
  simp only [exec, execPbSetmaxlen, unlessHalted_running hf, gt_iff_lt, if_pos h, State.raise_errArg]

theorem exec_nqSetmaxsize_inRange {n : Word} (h : n.toNat ≤ s.params.nqSlots) :
    exec (.nqSetmaxsize n) s = .next ({ s with nqMaxSize := n }.reply {}) := by
  simp [exec, execNqSetmaxsize, hf, Nat.not_lt.mpr h]

theorem exec_nqSetmaxsize_outside {n : Word} (h : s.params.nqSlots < n.toNat) :
    exec (.nqSetmaxsize n) s = .next (s.reply { status := .errArg }) := by
  simp [exec, execNqSetmaxsize, hf, h]

end running

/-! ## The stores over all commands -/

theorem keepsOrder_of_sublist {α : Type} {enq : Prop} {before after : List α} (h : after.Sublist before) :
    KeepsOrder enq before after :=
  ⟨after, [], h, (List.append_nil after).symm, Nat.zero_le 1, fun hnil => absurd rfl hnil⟩

theorem keepsOrder_of_snoc {α : Type} {enq : Prop} {before kept : List α} (c : α) (h : kept.Sublist before)
    (henq : enq) : KeepsOrder enq before (kept ++ [c]) :=
  ⟨kept, [c], h, rfl, le_rfl, fun _ => henq⟩

/-- A reset empties the three stores (R33). -/
theorem stores_of_sysReset {i : Instr} {s t : State} (h : exec i s = .next t) (hi : i = .sysReset) :
    t.mb = [] ∧ t.pb = [] ∧ t.nq = [] := by
  subst hi
  cases h
  exact ⟨rfl, rfl, rfl⟩

/-- A buffer that only loses entries stays within its bound, since the bound is kept, or a reset empties the buffer,
or the bound's setter leaves room for what the buffer held. -/
theorem length_le_bound_of_sublist {α : Type} {l l' : List α} {b b' slots : Word} {i : Instr}
    {setBound : Word → Instr} {Legal : Word → Prop} (hl : l'.Sublist l) (hlen : l.length ≤ b.toNat)
    (hbound : b' = b ∨ b' = slots ∧ i = .sysReset ∨ ∃ n, i = setBound n ∧ b' = n ∧ Legal n)
    (hreset : i = .sysReset → l' = []) (hset : ∀ n, i = setBound n → l.length ≤ n.toNat) :
    l'.length ≤ b'.toNat := by
  rcases hbound with rfl | ⟨-, hi⟩ | ⟨n, hi, rfl, -⟩
  · exact hl.length_le.trans hlen
  · simp [hreset hi]
  · exact hl.length_le.trans (hset _ hi)

section bounds
variable {i : Instr} {s t : State} (h : exec i s = .next t)
include h

theorem maint_length_le_bound (hi : Inv s) (hlen : s.mb.length ≤ s.mbMaxLen.toNat)
    (hset : ∀ n, i = .mbSetmaxlen n → s.mb.length ≤ n.toNat) : t.mb.length ≤ t.mbMaxLen.toNat := by
  rcases exec_maint h with hsub | ⟨_, now, _, _, _, _, _, _, c, -, -, -, -, rfl⟩
  · exact length_le_bound_of_sublist hsub hlen (exec_bounds h).1 (fun hr => (stores_of_sysReset h hr).1) hset
  · simpa using makeRoom_length_lt hi.mbMaxLen_legal.1 ((mbLive_sublist s now).length_le.trans hlen)

theorem passive_length_le_bound (hi : Inv s) (hlen : s.pb.length ≤ s.pbMaxLen.toNat)
    (hset : ∀ n, i = .pbSetmaxlen n → s.pb.length ≤ n.toNat) : t.pb.length ≤ t.pbMaxLen.toNat := by
  rcases exec_passive h with hsub | ⟨_, now, _, _, _, _, _, _, _, c, -, -, -, -, rfl⟩
  · exact length_le_bound_of_sublist hsub hlen (exec_bounds h).2.1 (fun hr => (stores_of_sysReset h hr).2.1) hset
  · simpa using makeRoom_length_lt hi.pbMaxLen_legal.1 ((pbLive_sublist s now).length_le.trans hlen)

/-- NQ needs no legal bound: it rejects an entry where the other two evict one (45_network_queue.md R181). -/
theorem queue_length_le_bound (hlen : s.nq.length ≤ s.nqMaxSize.toNat)
    (hset : ∀ n, i = .nqSetmaxsize n → s.nq.length ≤ n.toNat) : t.nq.length ≤ t.nqMaxSize.toNat := by
  rcases exec_queue h with hsub | ⟨_, _, _, -, -, hroom, rfl⟩
  · exact length_le_bound_of_sublist hsub hlen (exec_bounds h).2.2 (fun hr => (stores_of_sysReset h hr).2.2) hset
  · simpa using hroom

end bounds

/-! ## Capacity eviction (R145) -/

theorem runAll_append {s t : State} {is : List Instr} (js : List Instr) (h : runAll s is = some t) :
    runAll s (is ++ js) = runAll t js := by
  induction is generalizing s with
  | nil => cases h; rfl
  | cons i is ih =>
    obtain ⟨u, hu⟩ := exec_total i s
    simp only [List.cons_append, runAll, hu] at h ⊢
    exact ih h

theorem runAll_snoc {s t u : State} {is : List Instr} {i : Instr} (h : runAll s is = some t)
    (hi : exec i t = .next u) : runAll s (is ++ [i]) = some u := by
  rw [runAll_append [i] h]
  simp [runAll, hi]

/-- Making room in the last `maxLen` entries and appending one gives the last `maxLen` entries again. -/
theorem makeRoom_rtake_append {α : Type} {maxLen : Word} (hpos : 1 ≤ maxLen.toNat) (l : List α) (c : α) :
    makeRoom maxLen (l.rtake maxLen.toNat) ++ [c] = (l ++ [c]).rtake maxLen.toNat := by
  obtain ⟨k, hk⟩ := Nat.exists_eq_add_of_le' hpos
  rw [hk, List.rtake_concat_succ]
  congr 1
  rcases Nat.lt_or_ge l.length (k + 1) with hlt | hge
  · rw [makeRoom_of_room]
    · rw [List.rtake, List.rtake, Nat.sub_eq_zero_of_le hlt.le, Nat.sub_eq_zero_of_le (Nat.le_of_lt_succ hlt)]
    · rw [hk, List.rtake, List.length_drop]; omega
  · rw [makeRoom_of_full]
    · rw [List.rtake, List.rtake, List.drop_drop]; congr 1; omega
    · rw [hk, List.rtake, List.length_drop]; omega

theorem mbLiveAt_eq_self {s : State} {now : Dword} (h : ∀ e ∈ s.mb, (now.toNat : Int) ≤ e.deadline) :
    mbLiveAt s now = s.mb :=
  List.filter_eq_self.mpr fun e he => decide_eq_true (h e he)

/-- One more candidate, unlike every entry of the buffer, all of which are live: it is appended, and the front
entry makes room for it in a full buffer. -/
theorem exec_mbCandidate {s : State} (hf : s.fault = false) {c : MbCandidate} (hn : LegalNow c.now)
    (hlive : ∀ e ∈ s.mb, (c.now.toNat : Int) ≤ e.deadline)
    (hnew : ∀ e ∈ s.mb, ¬ SixEqual e (c.stored s.mbTimeout)) :
    exec c.command s =
      .next ({ s with mb := makeRoom s.mbMaxLen s.mb ++ [c.stored s.mbTimeout] }.reply (flagged true)) := by
  rw [← mbLiveAt_eq_self hlive] at hnew ⊢
  exact exec_mbEnq_new hf hn rfl hnew

/-- What capacity eviction asks of the candidates: legal clocks, pairwise different keys, and no entry expired at
any candidate's clock. -/
structure Evictable (timeout : Dword) (cs : List MbCandidate) : Prop where
  clock : ∀ c ∈ cs, LegalNow c.now
  different : (cs.map (MbCandidate.stored timeout)).Pairwise fun e c => ¬ SixEqual e c
  unexpired : ∀ c ∈ cs, ∀ c' ∈ cs, (c'.now.toNat : Int) ≤ (c.now.toNat : Int) + timeout.toInt

theorem Evictable.init {timeout : Dword} {cs : List MbCandidate} {c : MbCandidate}
    (h : Evictable timeout (cs ++ [c])) : Evictable timeout cs where
  clock x hx := h.clock x (List.mem_append_left [c] hx)
  different := h.different.sublist ((List.sublist_append_left cs [c]).map _)
  unexpired x hx y hy := h.unexpired x (List.mem_append_left [c] hx) y (List.mem_append_left [c] hy)

/-- The last candidate meets the entries of the earlier ones live and unlike its own. -/
theorem Evictable.last {timeout : Dword} {cs : List MbCandidate} {c : MbCandidate}
    (h : Evictable timeout (cs ++ [c])) {e : MaintEntry} (he : e ∈ cs.map (MbCandidate.stored timeout)) :
    (c.now.toNat : Int) ≤ e.deadline ∧ ¬ SixEqual e (c.stored timeout) := by
  have hpair := h.different
  rw [List.map_append, List.pairwise_append] at hpair
  refine ⟨?_, hpair.2.2 e he _ (List.mem_singleton_self _)⟩
  obtain ⟨x, hx, rfl⟩ := List.mem_map.mp he
  exact h.unexpired x (List.mem_append_left [c] hx) c List.mem_concat_self

/-- By induction on the candidates run so far: MB holds the last MB_MAXLEN of their entries, and nothing else has
changed. -/
theorem runAll_mbCandidates {s : State} (hf : s.fault = false) (hmb : s.mb = []) (hmax : 1 ≤ s.mbMaxLen.toNat)
    (cs : List MbCandidate) (h : Evictable s.mbTimeout cs) :
    ∃ t, runAll s (cs.map MbCandidate.command) = some t ∧ Frame [.maint] s t ∧
      t.mb = (cs.map (MbCandidate.stored s.mbTimeout)).rtake s.mbMaxLen.toNat := by
  induction cs using List.reverseRecOn with
  | nil => exact ⟨s, rfl, Frame.refl _ s, by simp [hmb]⟩
  | append_singleton cs c ih =>
    obtain ⟨t, hrun, hframe, ht⟩ := ih h.init
    have hbound : t.mbMaxLen = s.mbMaxLen := hframe .mbMaxLen (by decide)
    have htimeout : t.mbTimeout = s.mbTimeout := hframe .mbTimeout (by decide)
    have hrunning : t.fault = false := (hframe .status (by decide)).1.trans hf
    have hold {e : MaintEntry} (he : e ∈ t.mb) := h.last ((List.drop_subset _ _) (ht ▸ he))
    have hexec := exec_mbCandidate hrunning (h.clock c List.mem_concat_self) (fun e he => (hold he).1)
      (htimeout ▸ fun e he => (hold he).2)
    refine ⟨_, ?_, hframe.trans (exec_frame hexec), ?_⟩
    · rw [List.map_append]
      exact runAll_snoc hrun hexec
    · rw [State.reply_mb, ht, hbound, htimeout, makeRoom_rtake_append hmax, List.map_append]
      rfl

end Sys2Proof.Machine

namespace Sys2Proof.Proofs

open Sys2Proof.Machine Sys2Proof.Spec

/-- Settles O35: the clock test, the sweep, the duplicate test, then the append with room made for it. -/
theorem mbEnq : Obligations.MbEnq := by
  refine fun s seg now pkt our nhop src dst ack hf => ⟨encodes_encodeFields _, ?_, fun hn c hc => ⟨?_, ?_, ?_⟩⟩
  · exact fun hn => refuses_of_illegalNow hf hn rfl
  · intro hdup
    rw [← s.mbPurge_mb_eq, hc] at hdup
    exact completes_of_mbPurge (by rw [exec_mbEnq hf hn, mbAdmit_of_duplicate hdup])
  · intro hnew hroom
    have hexec := exec_mbEnq_new hf hn hc hnew
    rw [makeRoom_of_room hroom] at hexec
    exact completes_of_setMaint hexec
  · intro hnew hfull
    have hexec := exec_mbEnq_new hf hn hc hnew
    rw [makeRoom_of_full hfull] at hexec
    exact completes_of_setMaint hexec

/-- Settles O36: the clock test, the sweep, then the scan of the live entries. -/
theorem mbDeq : Obligations.MbDeq := by
  refine fun s now nhop hf => ⟨encodes_encodeFields _, ?_, fun hn => ⟨?_, ?_⟩⟩
  · exact fun hn => refuses_of_illegalNow hf hn rfl
  · intro e rest hmatch
    rw [← s.mbPurge_mb_eq] at hmatch
    exact completes_of_setMaint (by rw [exec_mbDeq hf hn, mbTake_of_firstMatch hmatch]; rfl)
  · intro hnone
    rw [← s.mbPurge_mb_eq] at hnone
    exact completes_of_mbPurge (by rw [exec_mbDeq hf hn, mbTake_of_none hnone])

/-- Settles O39: each of the four is `mbConsume` with the test of its own keys. -/
theorem mbPredicates : Obligations.MbPredicates := fun _ _ _ _ _ _ _ hf =>
  ⟨encodes_encodeFields _, encodes_encodeFields _, encodes_encodeFields _, encodes_encodeFields _,
    consumesFirst_of_exec (unlessHalted_running hf _), consumesFirst_of_exec (unlessHalted_running hf _),
    consumesFirst_of_exec (unlessHalted_running hf _), consumesFirst_of_exec (unlessHalted_running hf _)⟩

/-- Settles O56: by what a command can do to each store, which is to lose entries or to enqueue one. -/
theorem storesKeepOrder : Obligations.StoresKeepOrder := by
  intro i s t h
  refine ⟨?_, ?_, ?_⟩
  · rcases exec_maint h with hsub | ⟨seg, now, pkt, our, nhop, src, dst, ack, c, rfl, -, -, -, rfl⟩
    · exact keepsOrder_of_sublist hsub
    · exact keepsOrder_of_snoc c ((makeRoom_sublist _ _).trans (mbLive_sublist s now)) ⟨_, _, _, _, _, _, _, _, rfl⟩
  · rcases exec_passive h with hsub | ⟨seg, now, pkt, nhop, src, dst, pid, ident, foff, c, rfl, -, -, -, rfl⟩
    · exact keepsOrder_of_sublist hsub
    · exact keepsOrder_of_snoc c ((makeRoom_sublist _ _).trans (pbLive_sublist s now))
        ⟨_, _, _, _, _, _, _, _, _, rfl⟩
  · rcases exec_queue h with hsub | ⟨now, pkt, nhop, rfl, -, -, rfl⟩
    · exact keepsOrder_of_sublist hsub
    · exact keepsOrder_of_snoc _ (List.Sublist.refl s.nq) ⟨_, _, _, rfl⟩

/-- Settles O57: by induction on the candidates. -/
theorem mbCapacityEviction : Obligations.MbCapacityEviction := by
  intro s cs hf hmb hmax hclock hdiff hlive
  obtain ⟨t, hrun, -, ht⟩ := runAll_mbCandidates hf hmb hmax cs ⟨hclock, hdiff, hlive⟩
  refine ⟨t, hrun, ?_⟩
  rw [ht, List.rtake, List.length_map, List.map_drop]

/-- Settles O59: store by store, from what a command can do to the store and to its bound. -/
theorem lengthWithinBound : Obligations.LengthWithinBound := fun _ _ _ hi h =>
  ⟨maint_length_le_bound h hi, passive_length_le_bound h hi, queue_length_le_bound h⟩

/-- Settles O37: each of the three answers whether an entry of its store passes its test. -/
theorem findIsMembership : Obligations.FindIsMembership := by
  intro s key hf
  obtain ⟨hmb, hmb'⟩ := completes_of_any MaintEntry.hasNextHop_iff (exec_mbFind hf key)
  obtain ⟨hpb, hpb'⟩ := completes_of_any PassiveEntry.hasKey_iff (exec_pbFind hf key)
  obtain ⟨hnq, hnq'⟩ := completes_of_any QueueEntry.hasNextHop_iff (exec_nqFind hf key)
  exact ⟨encodes_encodeFields _, encodes_encodeFields _, encodes_encodeFields _, hmb, hmb', hpb, hpb', hnq, hnq'⟩

/-- Settles O38: the clock test, the sweep, then the removal of every entry for the next-hop. -/
theorem mbDropnh : Obligations.MbDropnh := by
  refine fun s now nhop hf => ⟨encodes_encodeFields _, ?_, fun hn n hcount => ?_⟩
  · exact fun hn => refuses_of_illegalNow hf hn rfl
  rw [← s.mbPurge_mb_eq] at hcount ⊢
  exact completes_of_setMaint (by rw [exec_mbDropnh hf hn, mbDropAll_eq _ _ hcount]; rfl)

/-- Settles O40: both sweep and reply. -/
theorem mbPurgeSize : Obligations.MbPurgeSize := fun _ _ hf =>
  ⟨encodes_encodeFields _, encodes_encodeFields _,
    fun hn => ⟨refuses_of_illegalNow hf hn rfl, refuses_of_illegalNow hf hn rfl⟩,
    fun hn => ⟨completes_of_mbPurge (exec_mbPurge hf hn), completes_of_mbPurge (exec_mbSize hf hn)⟩⟩

/-- Settles O41: the range test of each, then the write; `exec_frame` says that each writes its register only. -/
theorem boundSetters : Obligations.BoundSetters := fun _ _ hf =>
  ⟨encodes_encodeFields _, encodes_encodeFields _, encodes_encodeFields _,
    fun h => have hexec := exec_mbSetmaxlen_inRange hf h; ⟨_, hexec, rfl, rfl, exec_frame hexec, rfl⟩,
    fun h => completes_of_reply (exec_mbSetmaxlen_outside hf h),
    fun h => have hexec := exec_pbSetmaxlen_inRange hf h; ⟨_, hexec, rfl, rfl, exec_frame hexec, rfl⟩,
    fun h => completes_of_reply (exec_pbSetmaxlen_outside hf h),
    fun h => have hexec := exec_nqSetmaxsize_inRange hf h; ⟨_, hexec, rfl, rfl, exec_frame hexec, rfl⟩,
    fun h => completes_of_reply (exec_nqSetmaxsize_outside hf h)⟩

/-- Settles O42: each writes the pattern to its register, and by `exec_frame` nothing else. -/
theorem durationSetters : Obligations.DurationSetters := fun s hi lo hf =>
  have hmb : exec (.mbSettimeout hi lo) s = _ := unlessHalted_running hf _
  have hpb : exec (.pbSettimeout hi lo) s = _ := unlessHalted_running hf _
  have hnq : exec (.nqSetmaxdelay hi lo) s = _ := unlessHalted_running hf _
  ⟨encodes_encodeFields _, encodes_encodeFields _, encodes_encodeFields _,
    ⟨_, hmb, rfl, rfl, exec_frame hmb, durationBits_eq hi lo⟩,
    ⟨_, hpb, rfl, rfl, exec_frame hpb, durationBits_eq hi lo⟩,
    ⟨_, hnq, rfl, rfl, exec_frame hnq, durationBits_eq hi lo⟩⟩

end Sys2Proof.Proofs

/-!
The statements of 44_passive_buffer.md: each passive command that sweeps, stores or removes (R160 to R168), the pure
notification (R171), and the account of every entry over all commands (R172).
-/

namespace Sys2Proof.Machine

open Sys2Proof.Spec

/-! ## The tests of the entries -/

/-- The integer `seg - 1` of R160 as one step up from the candidate's `seg`. -/
theorem PassiveEntry.oneHopOn_iff (e c : PassiveEntry) : e.oneHopOn c = true ↔ OneHopOn e c := by
  rw [PassiveEntry.oneHopOn, PassiveEntry.same6, Bool.and_eq_true, decide_eq_true_iff, decide_eq_true_iff]
  exact and_congr_right fun _ => by omega

theorem PassiveEntry.exact7_iff (e c : PassiveEntry) : e.exact7 c = true ↔ PassiveSame e c ∧ c.seg = e.seg := by
  rw [PassiveEntry.exact7, PassiveEntry.same6, Bool.and_eq_true, decide_eq_true_iff, decide_eq_true_iff]
  rfl

/-- The duplicate test of PB.ENQ, under both settings of PB_EXACT_DUP_REJECT (R163). -/
theorem PassiveEntry.duplicates_iff {p : Params} (e c : PassiveEntry) :
    e.duplicates p.pbExactDupReject c = true ↔ PassiveDuplicate p e c := by
  rw [PassiveEntry.duplicates, Bool.or_eq_true, Bool.and_eq_true, e.oneHopOn_iff, e.exact7_iff]
  rfl

/-! ## The passive sweep -/

/-- The sweep leaves the live entries (R161). -/
theorem State.pbPurge_pb_eq (s : State) (now : Dword) : (s.pbPurge now).pb = pbLiveAt s now :=
  List.filter_congr fun e _ => by
    rw [Bool.eq_iff_iff, Bool.not_eq_true', decide_eq_true_iff]
    exact pastDeadline_eq_false

/-- The sweep reports the entries whose deadline is past (R161). -/
theorem State.pbExpiredEvents_eq (s : State) (now : Dword) : s.pbExpiredEvents now = pbDropsAt s now := rfl

/-- What the sweep reports and what it leaves make up the buffer. -/
theorem pbDropsAt_length (s : State) (now : Dword) :
    (pbDropsAt s now).length = s.pb.length - (pbLiveAt s now).length := by
  have hsplit := s.pb.length_eq_length_filter_add (·.expired now)
  rw [← s.pbExpiredEvents_eq, ← s.pbPurge_pb_eq, State.pbPurge_pb, State.pbLive, State.pbExpiredEvents,
    List.length_map]
  omega

/-- A command that replaces PB and replies changes nothing else. -/
theorem completes_of_setPassive {i : Instr} {s : State} {l : List PassiveEntry} {r : Response} {evs : List Event}
    (h : exec i s = .next ({ s with pb := l }.reply r evs)) :
    Completes i s [.passive] r evs fun t => t.pb = l :=
  ⟨_, h, rfl, rfl, frame_setPassive s l r evs, rfl⟩

/-- A command that sweeps and then only replies leaves the live entries. -/
theorem completes_of_pbPurge {i : Instr} {s : State} {now : Dword} {r : Response} {evs : List Event}
    (h : exec i s = .next ((s.pbPurge now).reply r evs)) :
    Completes i s [.passive] r evs fun t => t.pb = pbLiveAt s now :=
  s.pbPurge_pb_eq now ▸ completes_of_setPassive h

/-! ## What follows the sweep -/

theorem evictEvents_of_full {maxLen : Word} {front : PassiveEntry} {rest : List PassiveEntry}
    (h : maxLen.toNat ≤ rest.length + 1) : evictEvents maxLen (front :: rest) = [.drop .capacity front] :=
  if_pos h

theorem evictEvents_of_room {maxLen : Word} {l : List PassiveEntry} (h : l.length < maxLen.toNat) :
    evictEvents maxLen l = [] :=
  if_neg (Nat.not_le.mpr h)

theorem pbAdmit_of_duplicate {s : State} {c : PassiveEntry} (evs : List Event)
    (h : ∃ e ∈ s.pb, PassiveDuplicate s.params e c) : s.pbAdmit c evs = s.reply (flagged false) evs := by
  simp [State.pbAdmit, any_eq_true_of_exists (fun e => e.duplicates_iff c) h, flagged]

theorem pbAdmit_of_new {s : State} {c : PassiveEntry} (evs : List Event)
    (h : ∀ e ∈ s.pb, ¬ PassiveDuplicate s.params e c) :
    s.pbAdmit c evs = { s with pb := makeRoom s.pbMaxLen s.pb ++ [c] }.reply (flagged true)
      (evs ++ evictEvents s.pbMaxLen s.pb) := by
  simp [State.pbAdmit, any_eq_false_of_forall_not (fun e => e.duplicates_iff c) h, flagged]

theorem pbTake_of_firstMatch {s : State} {key : Word} {e : PassiveEntry} {rest : List PassiveEntry}
    (evs : List Event) (h : FirstMatch (fun x => lookupField s.params x = key) s.pb e rest) :
    s.pbTake key evs = { s with pb := rest }.reply { flag := true, entry := some (.passive e) } evs := by
  obtain ⟨hfind, herase, -⟩ := scan_of_firstMatch PassiveEntry.hasKey_iff h
  simp [State.pbTake, hfind, herase]

theorem pbTake_of_none {s : State} {key : Word} (evs : List Event)
    (h : ∀ e ∈ s.pb, lookupField s.params e ≠ key) : s.pbTake key evs = s.reply (flagged false) evs := by
  simp [State.pbTake, find?_eq_none_of_forall_not PassiveEntry.hasKey_iff h, flagged]

/-! ## What each command answers -/

section running
variable {s : State} (hf : s.fault = false)
include hf

theorem exec_pbEnq {now : Dword} (hn : LegalNow now) (seg : Byte) (pkt nhop src dst : Word)
    (pid ident foff : Half) :
    exec (.pbEnq seg now pkt nhop src dst pid ident foff) s =
      .next ((s.pbPurge now).pbAdmit
        ⟨pkt, pid, src, dst, nhop, ident, foff, seg, (now.toNat : Int) + s.pbTimeout.toInt⟩ (pbDropsAt s now)) :=
  exec_of_legalNow hf hn rfl

theorem exec_pbEnq_new {now : Dword} (hn : LegalNow now) {seg : Byte} {pkt nhop src dst : Word}
    {pid ident foff : Half} {c : PassiveEntry}
    (hc : c = ⟨pkt, pid, src, dst, nhop, ident, foff, seg, (now.toNat : Int) + s.pbTimeout.toInt⟩)
    (hnew : ∀ e ∈ pbLiveAt s now, ¬ PassiveDuplicate s.params e c) :
    exec (.pbEnq seg now pkt nhop src dst pid ident foff) s =
      .next ({ s with pb := makeRoom s.pbMaxLen (pbLiveAt s now) ++ [c] }.reply (flagged true)
        (pbDropsAt s now ++ evictEvents s.pbMaxLen (pbLiveAt s now))) := by
  rw [← s.pbPurge_pb_eq] at hnew ⊢
  subst hc
  rw [exec_pbEnq hf hn, pbAdmit_of_new _ hnew]
  rfl

theorem exec_pbDeq {now : Dword} (hn : LegalNow now) (key : Word) :
    exec (.pbDeq now key) s = .next ((s.pbPurge now).pbTake key (pbDropsAt s now)) :=
  exec_of_legalNow hf hn rfl

theorem exec_pbPurge {now : Dword} (hn : LegalNow now) :
    exec (.pbPurge now) s =
      .next ((s.pbPurge now).reply (valued (s.pb.length - (pbLiveAt s now).length)) (pbDropsAt s now)) := by
  rw [← pbDropsAt_length]
  exact exec_of_legalNow hf hn rfl

theorem exec_pbSize {now : Dword} (hn : LegalNow now) :
    exec (.pbSize now) s = .next ((s.pbPurge now).reply (valued (pbLiveAt s now).length) (pbDropsAt s now)) := by
  rw [← s.pbPurge_pb_eq]
  exact exec_of_legalNow hf hn rfl

end running

/-! ## The account of the passive entries (R172) -/

/-- What is to be accounted for, `before` and at most one entry that PB.ENQ adds, is what PB holds after the command,
what the response hands over, what the events report, and what only SYS.RESET or PB.ALLEQ takes without report. -/
def AccountedFor (i : Instr) (before : List PassiveEntry) (t : State) : Prop :=
  ∃ added gone : List PassiveEntry,
    (before ++ added).Perm (t.pb ++ handedOver t.resp ++ droppedEntries t.events ++ gone) ∧
    (added ≠ [] → added.length = 1 ∧ t.resp.flag = true ∧
      ∃ seg now pkt nhop src dst pid ident foff, i = .pbEnq seg now pkt nhop src dst pid ident foff) ∧
    (gone ≠ [] → i = .sysReset ∨ gone.length = 1 ∧ t.resp.flag = true ∧
      ∃ seg nhop src dst pid ident foff, i = .pbAlleq seg nhop src dst pid ident foff)

theorem droppedEntries_append (evs evs' : List Event) :
    droppedEntries (evs ++ evs') = droppedEntries evs ++ droppedEntries evs' :=
  List.filterMap_append

theorem droppedEntries_map_drop (cause : DropCause) (l : List PassiveEntry) :
    droppedEntries (l.map (.drop cause)) = l := by
  simp [droppedEntries, List.filterMap_map]

theorem handedOver_of_entry_none {r : Response} (h : r.entry = none) : handedOver r = [] := by
  simp [handedOver, h]

/-- The sweep reports each entry that it removes (R161). -/
theorem perm_pbPurge (s : State) (now : Dword) :
    s.pb.Perm ((s.pbPurge now).pb ++ droppedEntries (s.pbExpiredEvents now)) := by
  rw [State.pbExpiredEvents, droppedEntries_map_drop]
  exact ((List.perm_append_comm).trans (List.filter_append_perm (·.expired now) s.pb)).symm

/-- The eviction reports the entry that it removes (R162). -/
theorem dropped_evictEvents_append_makeRoom (maxLen : Word) (l : List PassiveEntry) :
    droppedEntries (evictEvents maxLen l) ++ makeRoom maxLen l = l := by
  unfold evictEvents makeRoom
  split
  · rw [droppedEntries_map_drop, ← List.drop_one, List.take_append_drop]
  · rfl

section account
variable {i : Instr} {s t : State} {before : List PassiveEntry}

theorem AccountedFor.of_perm {before' : List PassiveEntry} (h : AccountedFor i before' t)
    (hp : before.Perm before') : AccountedFor i before t := by
  obtain ⟨added, gone, hperm, hrest⟩ := h
  exact ⟨added, gone, (hp.append_right added).trans hperm, hrest⟩

/-- Nothing is added, and nothing goes without report. -/
theorem accountedFor_of_perm (h : before.Perm (t.pb ++ handedOver t.resp ++ droppedEntries t.events)) :
    AccountedFor i before t :=
  ⟨[], [], by simpa using h, fun hnil => absurd rfl hnil, fun hnil => absurd rfl hnil⟩

theorem accountedFor_reply {r : Response} (hr : r.entry = none) (evs : List Event) :
    AccountedFor i (s.pb ++ droppedEntries evs) (s.reply r evs) :=
  accountedFor_of_perm (by simp [handedOver_of_entry_none hr])

/-- A reply without events, a refusal among them, keeps PB. -/
theorem accountedFor_reply_silent {r : Response} (hr : r.entry = none) : AccountedFor i s.pb (s.reply r []) :=
  (accountedFor_reply hr []).of_perm (by simp [droppedEntries])

theorem accountedFor_pbAdmit (c : PassiveEntry) (evs : List Event)
    (hi : ∃ seg now pkt nhop src dst pid ident foff, i = .pbEnq seg now pkt nhop src dst pid ident foff) :
    AccountedFor i (s.pb ++ droppedEntries evs) (s.pbAdmit c evs) := by
  rcases pbAdmit_cases s c evs with ⟨-, h⟩ | ⟨-, h⟩ <;> rw [h]
  · exact accountedFor_reply rfl evs
  · refine ⟨[c], [], ?_, fun _ => ⟨rfl, rfl, hi⟩, fun hnil => absurd rfl hnil⟩
    refine List.perm_iff_count.mpr fun e => ?_
    have hcount := congrArg (List.count e) (dropped_evictEvents_append_makeRoom s.pbMaxLen s.pb)
    simp only [State.reply_pb, State.reply_resp, State.reply_events, handedOver, droppedEntries_append,
      List.count_append, List.count_nil] at hcount ⊢
    omega

theorem accountedFor_pbTake (key : Word) (evs : List Event) :
    AccountedFor i (s.pb ++ droppedEntries evs) (s.pbTake key evs) := by
  rcases pbTake_cases s key evs with ⟨front, e, back, hpb, -, -, h⟩ | ⟨-, h⟩ <;> rw [h]
  · refine accountedFor_of_perm (.append_right _ ?_)
    rw [hpb, State.reply_pb, State.reply_resp, handedOver, List.append_assoc]
    exact (List.perm_append_singleton e back).symm.append_left front
  · exact accountedFor_reply rfl evs

theorem accountedFor_pbConsume (p : PassiveEntry → Bool)
    (hi : ∃ seg nhop src dst pid ident foff, i = .pbAlleq seg nhop src dst pid ident foff) :
    AccountedFor i s.pb (s.pbConsume p) := by
  rcases pbConsume_cases s p with ⟨front, e, back, hpb, -, -, h⟩ | ⟨-, h⟩ <;> rw [h]
  · refine ⟨[], [e], ?_, fun hnil => absurd rfl hnil, fun _ => .inr ⟨rfl, rfl, hi⟩⟩
    rw [hpb]
    simpa [handedOver, droppedEntries] using (List.perm_append_singleton e back).symm.append_left front
  · exact accountedFor_reply_silent rfl

/-- A command that respects the halt accounts for every entry if what it does when running does. -/
theorem accountedFor_of_running {k : State} (h : s.unlessHalted k = .next t) (hk : AccountedFor i s.pb k) :
    AccountedFor i s.pb t := by
  rcases unlessHalted_cases h with ⟨-, rfl⟩ | ⟨-, rfl⟩
  · exact accountedFor_reply_silent rfl
  · exact hk

/-- A command that sweeps accounts for every entry if what follows the sweep accounts for the live entries and the
reported ones. -/
theorem accountedFor_of_sweep {k : State} {now : Dword}
    (h : s.unlessHalted (if nowLegal now then k else s.raise .errArg) = .next t)
    (hk : AccountedFor i ((s.pbPurge now).pb ++ droppedEntries (s.pbExpiredEvents now)) k) :
    AccountedFor i s.pb t := by
  refine accountedFor_of_running h ?_
  split
  · exact hk.of_perm (perm_pbPurge s now)
  · exact accountedFor_reply_silent rfl

end account

/-- A command that may not write PB reports no drop (60_exceptions.md R212). -/
theorem exec_events_of_not_passive {i : Instr} {s t : State} (h : exec i s = .next t)
    (hi : Part.passive ∉ mayWrite i) :
    t.events = [] ∨ ∃ pkt nhop src, i = .pbDroplink pkt nhop src ∧ t.events = [.dropLink pkt src nhop] := by
  cases i
  case sysReset | pbEnq | pbDeq | pbAlleq | pbPurge | pbSize => exact absurd (by simp [mayWrite]) hi
  case sysStatus => cases h; exact .inl rfl
  all_goals
    rcases unlessHalted_cases h with ⟨-, rfl⟩ | ⟨-, rfl⟩
    · exact .inl rfl
  case pbDroplink pkt nhop src => exact .inr ⟨pkt, nhop, src, rfl, rfl⟩
  case mbEnq =>
    left; split
    · rcases mbAdmit_cases _ _ with ⟨-, h⟩ | ⟨-, h⟩ <;> rw [h] <;> rfl
    · rfl
  case mbDeq =>
    left; split
    · rcases mbTake_cases _ _ with ⟨_, _, _, -, -, -, h⟩ | ⟨-, h⟩ <;> rw [h] <;> rfl
    · rfl
  case mbAlleq | mbNeteq | mbPromeq | mbLinkeq =>
    left; rcases mbConsume_cases s _ with ⟨_, _, _, -, -, -, h⟩ | ⟨-, h⟩ <;> rw [h] <;> rfl
  case nqDeq now =>
    left; split
    · rcases nqPop_cases (s.nqCleanup now) with ⟨-, h⟩ | ⟨_, _, -, h⟩ <;> rw [h] <;> rfl
    · rfl
  all_goals (left; (repeat' split) <;> rfl)

/-- Only PB.DEQ hands over a passive entry (R69). -/
theorem handedOver_of_not_passive {i : Instr} {s t : State} (h : exec i s = .next t)
    (hi : Part.passive ∉ mayWrite i) : handedOver t.resp = [] := by
  unfold handedOver
  split
  · rename_i e he
    obtain ⟨-, now, key, rfl⟩ : FromOwnStore i s (.passive e) := exec_entry_fromOwnStore h he
    exact absurd (by simp [mayWrite]) hi
  · rfl

/-- A command that may not write PB has nothing to account for. -/
theorem accountedFor_of_not_passive {i : Instr} {s t : State} (h : exec i s = .next t)
    (hi : Part.passive ∉ mayWrite i) : AccountedFor i s.pb t := by
  have hpb : t.pb = s.pb := exec_frame h .passive hi
  have hdropped : droppedEntries t.events = [] := by
    rcases exec_events_of_not_passive h hi with hevs | ⟨_, _, _, -, hevs⟩ <;> rw [hevs] <;> rfl
  refine accountedFor_of_perm ?_
  rw [hpb, handedOver_of_not_passive h hi, hdropped, List.append_nil, List.append_nil]

/-- Every command accounts for every passive entry: a reset takes them all, and each of the others that may write PB
is a refusal, or a sweep and what follows it, or PB.ALLEQ. -/
theorem exec_accountedFor {i : Instr} {s t : State} (h : exec i s = .next t) : AccountedFor i s.pb t := by
  cases i
  case sysReset =>
    cases h
    exact ⟨[], s.pb, by simp [handedOver, droppedEntries], fun hnil => absurd rfl hnil, fun _ => .inl rfl⟩
  case pbEnq => exact accountedFor_of_sweep h (accountedFor_pbAdmit _ _ ⟨_, _, _, _, _, _, _, _, _, rfl⟩)
  case pbDeq => exact accountedFor_of_sweep h (accountedFor_pbTake _ _)
  case pbPurge | pbSize => exact accountedFor_of_sweep h (accountedFor_reply rfl _)
  case pbAlleq => exact accountedFor_of_running h (accountedFor_pbConsume _ ⟨_, _, _, _, _, _, _, rfl⟩)
  all_goals exact accountedFor_of_not_passive h (by simp [mayWrite])

end Sys2Proof.Machine

namespace Sys2Proof.Proofs

open Sys2Proof.Machine Sys2Proof.Spec

/-- Settles O43: the clock test, the sweep, the duplicate test, then the append with room made for it. -/
theorem pbEnq : Obligations.PbEnq := by
  refine fun s seg now pkt nhop src dst pid ident foff hf =>
    ⟨encodes_encodeFields _, ?_, fun hn c hc => ⟨?_, ?_, ?_⟩⟩
  · exact fun hn => refuses_of_illegalNow hf hn rfl
  · intro hdup
    rw [← s.pbPurge_pb_eq, hc] at hdup
    exact completes_of_pbPurge (by rw [exec_pbEnq hf hn, pbAdmit_of_duplicate _ hdup])
  · intro hnew hroom
    have hexec := exec_pbEnq_new hf hn hc hnew
    rw [makeRoom_of_room hroom, evictEvents_of_room hroom, List.append_nil] at hexec
    exact completes_of_setPassive hexec
  · intro hnew front rest hlive hfull
    have hexec := exec_pbEnq_new hf hn hc hnew
    rw [hlive, makeRoom_of_full hfull, evictEvents_of_full hfull] at hexec
    exact completes_of_setPassive hexec

/-- Settles O44: the clock test, the sweep, then the scan of the live entries. -/
theorem pbDeq : Obligations.PbDeq := by
  refine fun s now key hf => ⟨encodes_encodeFields _, ?_, fun hn => ⟨?_, ?_⟩⟩
  · exact fun hn => refuses_of_illegalNow hf hn rfl
  · intro e rest hmatch
    rw [← s.pbPurge_pb_eq] at hmatch
    exact completes_of_setPassive (by rw [exec_pbDeq hf hn, pbTake_of_firstMatch _ hmatch]; rfl)
  · intro hnone
    rw [← s.pbPurge_pb_eq] at hnone
    exact completes_of_pbPurge (by rw [exec_pbDeq hf hn, pbTake_of_none _ hnone])

/-- Settles O45: `pbConsume` with the test of one hop on, which compares neither `pkt` nor `deadline`. -/
theorem pbAlleq : Obligations.PbAlleq := by
  refine fun s seg nhop src dst pid ident foff hf => ⟨encodes_encodeFields _, fun P hP => ?_⟩
  have hexec := unlessHalted_running hf (s.pbConsume fun e => e.oneHopOn
    ⟨0, pid, src, dst, nhop, ident, foff, seg, 0⟩)
  have htest (e : PassiveEntry) : e.oneHopOn ⟨0, pid, src, dst, nhop, ident, foff, seg, 0⟩ = true ↔ P e := by
    simp only [hP, e.oneHopOn_iff, OneHopOn, PassiveSame, and_assoc, eq_comm (a := seg.toNat + 1)]
  refine ⟨fun e rest hmatch => completes_of_setPassive (hexec.trans ?_),
    fun hnone => completes_of_reply (hexec.trans ?_)⟩
  · obtain ⟨-, herase, hany⟩ := scan_of_firstMatch htest hmatch
    rw [State.pbConsume, if_pos hany, herase]
    rfl
  · rw [State.pbConsume, if_neg (Bool.eq_false_iff.mp (any_eq_false_of_forall_not htest hnone))]
    rfl

/-- Settles O58: by what each command that may write PB does to it. -/
theorem passiveAccounted : Obligations.PassiveAccounted := fun _ _ _ => exec_accountedFor

/-- Settles O46: both sweep and reply with the sweep's events. -/
theorem pbPurgeSize : Obligations.PbPurgeSize := fun _ _ hf =>
  ⟨encodes_encodeFields _, encodes_encodeFields _,
    fun hn => ⟨refuses_of_illegalNow hf hn rfl, refuses_of_illegalNow hf hn rfl⟩,
    fun hn => ⟨completes_of_pbPurge (exec_pbPurge hf hn), completes_of_pbPurge (exec_pbSize hf hn)⟩⟩

/-- Settles O47: the command only replies, so it changes nothing. -/
theorem pbDroplink : Obligations.PbDroplink := fun _ _ _ _ hf =>
  ⟨encodes_encodeFields _, completes_of_reply (unlessHalted_running hf _)⟩

end Sys2Proof.Proofs

/-!
The statements of 45_network_queue.md: each command that enqueues (R181), removes and hands over (R182, R184), or
only removes (R185 to R187). NQ.FIND and the two register setters stand with their siblings of the other two stores.
-/

namespace Sys2Proof.Machine

open Sys2Proof.Spec

/-! ## The cleanup -/

/-- The cleanup leaves the live entries under the current NQ_MAXDELAY (R180). -/
theorem State.nqCleanup_nq_eq (s : State) (now : Dword) : (s.nqCleanup now).nq = nqLiveAt s now :=
  List.filter_congr fun e _ => by
    rw [Bool.eq_iff_iff, Bool.not_eq_true', decide_eq_true_iff]
    exact pastDeadline_eq_false

/-- What the cleanup removes and what it leaves make up the queue. -/
theorem State.nqExpiredCount_eq (s : State) (now : Dword) :
    s.nqExpiredCount now = s.nq.length - (nqLiveAt s now).length := by
  have hsplit := s.nq.length_eq_length_filter_add (·.expired s.nqMaxDelay now)
  rw [← s.nqCleanup_nq_eq, State.nqCleanup_nq, State.nqLive, State.nqExpiredCount, List.countP_eq_length_filter]
  omega

/-- A command that replaces NQ and replies changes nothing else. -/
theorem completes_of_setQueue {i : Instr} {s : State} {l : List QueueEntry} {r : Response}
    (h : exec i s = .next ({ s with nq := l }.reply r)) : Completes i s [.queue] r [] fun t => t.nq = l :=
  ⟨_, h, rfl, rfl, frame_setQueue s l r [], rfl⟩

/-- A command that cleans up and then only replies leaves the live entries. -/
theorem completes_of_nqCleanup {i : Instr} {s : State} {now : Dword} {r : Response}
    (h : exec i s = .next ((s.nqCleanup now).reply r)) :
    Completes i s [.queue] r [] fun t => t.nq = nqLiveAt s now :=
  s.nqCleanup_nq_eq now ▸ completes_of_setQueue h

/-! ## What follows the cleanup -/

theorem nqPop_of_nil {s : State} (h : s.nq = []) : s.nqPop = s.reply (flagged false) := by
  simp [State.nqPop, h, flagged]

theorem nqPop_of_cons {s : State} {e : QueueEntry} {rest : List QueueEntry} (h : s.nq = e :: rest) :
    s.nqPop = { s with nq := rest }.reply { flag := true, entry := some (.queue e) } := by
  simp [State.nqPop, h]

/-! ## What each command answers -/

section running
variable {s : State} (hf : s.fault = false)
include hf

theorem exec_nqEnq_full {now : Dword} (hn : LegalNow now) (pkt nhop : Word)
    (hfull : s.nqMaxSize.toNat ≤ s.nq.length) :
    exec (.nqEnq now pkt nhop) s = .next (s.reply (flagged false)) := by
  rw [exec_of_legalNow hf hn rfl, if_pos hfull, flagged]

theorem exec_nqEnq_room {now : Dword} (hn : LegalNow now) (pkt nhop : Word)
    (hroom : s.nq.length < s.nqMaxSize.toNat) :
    exec (.nqEnq now pkt nhop) s =
      .next ({ s with nq := s.nq ++ [QueueEntry.mk pkt nhop now] }.reply (flagged true)) := by
  rw [exec_of_legalNow hf hn rfl, if_neg (Nat.not_le.mpr hroom), flagged]

theorem exec_nqDeq {now : Dword} (hn : LegalNow now) : exec (.nqDeq now) s = .next (s.nqCleanup now).nqPop :=
  exec_of_legalNow hf hn rfl

theorem exec_nqFindpop_of_firstMatch {key : Word} {e : QueueEntry} {rest : List QueueEntry}
    (h : FirstMatch (fun x : QueueEntry => x.nhop = key) s.nq e rest) :
    exec (.nqFindpop key) s =
      .next ({ s with nq := rest }.reply { flag := true, entry := some (.queue e) }) := by
  obtain ⟨hfind, herase, -⟩ := scan_of_firstMatch QueueEntry.hasNextHop_iff h
  simp [exec, execNqFindpop, hf, hfind, herase]

theorem exec_nqFindpop_of_none {key : Word} (h : ∀ e ∈ s.nq, e.nhop ≠ key) :
    exec (.nqFindpop key) s = .next (s.reply (flagged false)) := by
  simp [exec, execNqFindpop, hf, find?_eq_none_of_forall_not QueueEntry.hasNextHop_iff h, flagged]

theorem exec_nqFlush :
    exec .nqFlush s = .next ({ s with nq := [] }.reply (valued s.nq.length)) :=
  unlessHalted_running hf _

theorem exec_nqCleanup {now : Dword} (hn : LegalNow now) :
    exec (.nqCleanup now) s =
      .next ((s.nqCleanup now).reply (valued (s.nq.length - (nqLiveAt s now).length))) := by
  rw [← s.nqExpiredCount_eq]
  exact exec_of_legalNow hf hn rfl

theorem exec_nqSize {now : Dword} (hn : LegalNow now) :
    exec (.nqSize now) s = .next ((s.nqCleanup now).reply (valued (nqLiveAt s now).length)) := by
  rw [← s.nqCleanup_nq_eq]
  exact exec_of_legalNow hf hn rfl

end running

end Sys2Proof.Machine

namespace Sys2Proof.Proofs

open Sys2Proof.Machine Sys2Proof.Spec

/-- Settles O50: the scan of the whole queue, expired entries included, then the removal of what it found. -/
theorem nqFindpop : Obligations.NqFindpop := fun _ _ hf =>
  ⟨encodes_encodeFields _,
    fun _ _ hmatch => completes_of_setQueue (exec_nqFindpop_of_firstMatch hf hmatch),
    fun hnone => completes_of_reply (exec_nqFindpop_of_none hf hnone)⟩

/-- Settles O48: the clock test, then the test for room. -/
theorem nqEnq : Obligations.NqEnq := fun _ _ pkt nhop hf =>
  ⟨encodes_encodeFields _,
    fun hn => refuses_of_illegalNow hf hn rfl,
    fun hn hfull => completes_of_reply (exec_nqEnq_full hf hn pkt nhop hfull),
    fun hn hroom => completes_of_setQueue (exec_nqEnq_room hf hn pkt nhop hroom)⟩

/-- Settles O49: the clock test, the cleanup, then the pop of the front live entry. -/
theorem nqDeq : Obligations.NqDeq := by
  refine fun s now hf => ⟨encodes_encodeFields _, ?_, fun hn => ⟨?_, ?_⟩⟩
  · exact fun hn => refuses_of_illegalNow hf hn rfl
  · intro hempty
    have hexec := exec_nqDeq hf hn
    rw [nqPop_of_nil ((s.nqCleanup_nq_eq now).trans hempty)] at hexec
    exact hempty ▸ completes_of_nqCleanup hexec
  · intro e rest hlive
    have hexec := exec_nqDeq hf hn
    rw [nqPop_of_cons ((s.nqCleanup_nq_eq now).trans hlive)] at hexec
    exact completes_of_setQueue hexec

/-- Settles O51: the queue is replaced by the empty one. -/
theorem nqFlush : Obligations.NqFlush := fun _ hf =>
  ⟨encodes_encodeFields _, completes_of_setQueue (exec_nqFlush hf)⟩

/-- Settles O52: both clean up and reply. -/
theorem nqCleanupSize : Obligations.NqCleanupSize := fun _ _ hf =>
  ⟨encodes_encodeFields _, encodes_encodeFields _,
    fun hn => ⟨refuses_of_illegalNow hf hn rfl, refuses_of_illegalNow hf hn rfl⟩,
    fun hn => ⟨completes_of_nqCleanup (exec_nqCleanup hf hn), completes_of_nqCleanup (exec_nqSize hf hn)⟩⟩

end Sys2Proof.Proofs

/-!
The statements of 60_exceptions.md: the halted block and its only exit (R203, R210), the refusals and the order of
the checks (R204 to R206, R208), the fault and its causes (R207), and the sources of events (R212).
-/

namespace Sys2Proof.Machine

open Sys2Proof.Spec

/-! ## The halted block (R203, R210) -/

/-- A step takes the next descriptor as if the host presented it now. -/
theorem step_of_input {s : State} {d : Desc} {rest : List Desc} (h : s.input = d :: rest) :
    step s = step (State.present { s with input := rest } d) := by
  rw [State.present_of_input h]

/-- The two commands that run halted. -/
theorem eq_of_runsHalted {i : Instr} (hi : runsHalted i = true) : i = .sysReset ∨ i = .sysStatus := by
  cases i
  case sysReset => exact .inl rfl
  case sysStatus => exact .inr rfl
  all_goals cases hi

/-- Every other command is refused before any of its own checks. -/
theorem exec_halted {i : Instr} {s : State} (hf : s.fault = true) (hi : runsHalted i = false) :
    exec i s = .next (s.reply { status := .errHalted } []) := by
  cases i
  case sysReset | sysStatus => cases hi
  all_goals exact unlessHalted_halted hf _

/-- Whatever is presented to a halted block, it only replies, unless that is SYS.RESET. -/
theorem step_present_halted {s : State} {d : Desc} (hf : s.fault = true) (hd : decode d ≠ .ok .sysReset) :
    ∃ r, step (s.present d) = .next (s.reply r []) := by
  cases hdec : decode d with
  | error e => exact ⟨_, step_present_of_error hdec s⟩
  | ok i =>
    rw [step_present_of_ok hdec]
    cases hi : runsHalted i with
    | false => exact ⟨_, exec_halted hf hi⟩
    | true =>
      rcases eq_of_runsHalted hi with rfl | rfl
      · exact absurd hdec hd
      · exact ⟨_, exec_sysStatus s⟩

/-- A run of the core begins with one step. -/
theorem run_succ_of_step {s t : State} (h : step s = .next t) (n : Nat) :
    Host.Core.run core (n + 1) s = Host.Core.run core n t := by
  have hcore : core.step s = .next t := h
  simp only [Host.Core.run, hcore]

/-- The induction over the steps of a halted block: each takes one descriptor, while there is one, and replies. -/
theorem run_halted (n : Nat) {s : State} (hf : s.fault = true)
    (hd : ∀ d ∈ s.input.take n, decode d ≠ .ok .sysReset) :
    ∃ t : State, Host.Core.run core n s = .next t ∧ Frame [.input] s t ∧ t.input = s.input.drop n := by
  induction n generalizing s with
  | zero => exact ⟨s, rfl, Frame.refl _ s, rfl⟩
  | succ n ih =>
    cases hin : s.input with
    | nil =>
      obtain ⟨t, hrun, hframe, hinput⟩ := ih hf (by simp [hin])
      rw [hin, List.drop_nil] at hinput
      exact ⟨t, (run_succ_of_step (step_of_input_nil hin) n).trans hrun, hframe, hinput⟩
    | cons d rest =>
      rw [hin, List.take_succ_cons, List.forall_mem_cons] at hd
      obtain ⟨hfirst, hlater⟩ := hd
      obtain ⟨r, hstep⟩ := step_present_halted (s := { s with input := rest }) hf hfirst
      obtain ⟨t, hrun, hframe, hinput⟩ := ih (s := State.reply { s with input := rest } r []) hf hlater
      exact ⟨t, (run_succ_of_step ((step_of_input hin).trans hstep) n).trans hrun,
        (frame_consume s rest r).trans hframe, hinput⟩

/-! ## Refusals (R204) -/

/-- Of the three outcomes of a step, OK and the fault are no refusals, and a refusal is a bare reply. -/
theorem step_present_cleanRefusal {s t : State} {d : Desc} (h : step (s.present d) = .next t) :
    CleanRefusal s t := by
  intro hok hfault
  rcases step_present_outcome h with hst | ⟨st, -, rfl⟩ | ⟨a, rfl⟩
  · exact absurd hst hok
  · exact ⟨rfl, rfl, frame_reply [] s _ _⟩
  · exact absurd rfl hfault

/-! ## The order of the checks (R205, R206, R208) -/

/-- The command ends with this status. -/
def EndsWith (i : Instr) (s : State) (st : Status) : Prop := ∃ t, exec i s = .next t ∧ t.resp.status = st

section status
variable {i : Instr} {s k : State}

theorem mbAdmit_status (s : State) (c : MaintEntry) : (s.mbAdmit c).resp.status = .ok := by
  rcases mbAdmit_cases s c with ⟨-, h⟩ | ⟨-, h⟩ <;> rw [h] <;> rfl

theorem mbTake_status (s : State) (nhop : Word) : (s.mbTake nhop).resp.status = .ok := by
  rcases mbTake_cases s nhop with ⟨_, _, _, -, -, -, h⟩ | ⟨-, h⟩ <;> rw [h] <;> rfl

theorem mbConsume_status (s : State) (p : MaintEntry → Bool) : (s.mbConsume p).resp.status = .ok := by
  rcases mbConsume_cases s p with ⟨_, _, _, -, -, -, h⟩ | ⟨-, h⟩ <;> rw [h] <;> rfl

theorem pbAdmit_status (s : State) (c : PassiveEntry) (evs : List Event) :
    (s.pbAdmit c evs).resp.status = .ok := by
  rcases pbAdmit_cases s c evs with ⟨-, h⟩ | ⟨-, h⟩ <;> rw [h] <;> rfl

theorem pbTake_status (s : State) (key : Word) (evs : List Event) : (s.pbTake key evs).resp.status = .ok := by
  rcases pbTake_cases s key evs with ⟨_, _, _, -, -, -, h⟩ | ⟨-, h⟩ <;> rw [h] <;> rfl

theorem pbConsume_status (s : State) (p : PassiveEntry → Bool) : (s.pbConsume p).resp.status = .ok := by
  rcases pbConsume_cases s p with ⟨_, _, _, -, -, -, h⟩ | ⟨-, h⟩ <;> rw [h] <;> rfl

theorem nqPop_status (s : State) : s.nqPop.resp.status = .ok := by
  rcases nqPop_cases s with ⟨-, h⟩ | ⟨_, _, -, h⟩ <;> rw [h] <;> rfl

theorem endsWith_of_running {st : Status} (hf : s.fault = false) (hi : exec i s = s.unlessHalted k)
    (hk : k.resp.status = st) : EndsWith i s st :=
  ⟨k, hi.trans (unlessHalted_running hf k), hk⟩

/-- A chain of checks ends with the status of the first that fails. -/
theorem endsWith_ite {c : Prop} [Decidable c] {st st' : Status} (h : c → EndsWith i s st)
    (h' : ¬ c → EndsWith i s st') : EndsWith i s (if c then st else st') := by
  split
  · exact h ‹_›
  · exact h' ‹_›

/-- The clock test decides the status of the commands that open with it. -/
theorem endsWith_nowStatus {now : Dword} (hf : s.fault = false)
    (hi : exec i s = s.unlessHalted (if nowLegal now then k else s.raise .errArg))
    (hk : k.resp.status = .ok) : EndsWith i s (nowStatus now) := by
  refine endsWith_ite (fun hn => ⟨k, exec_of_legalNow hf hn hi, hk⟩) fun hn => ?_
  obtain ⟨t, ht, hresp, -⟩ := refuses_of_illegalNow hf hn hi
  exact ⟨t, ht, congrArg Response.status hresp⟩

end status

/-- The least number of filler bytes is the pad of R100. -/
theorem isPad_leastPad (osz o : Nat) {f : Byte} (hf : f ≠ 0#8) :
    IsPad osz f.toNat o (leastPad osz f.toNat o) := by
  have hpos : 0 < f.toNat := Nat.pos_of_ne_zero fun h => hf (BitVec.eq_of_toNat_eq h)
  refine ⟨Nat.mod_lt _ hpos, ?_⟩
  have hlt : (osz + 8) % f.toNat < f.toNat := Nat.mod_lt _ hpos
  calc (osz + 8 + leastPad osz f.toNat o) % f.toNat
      = ((osz + 8) % f.toNat + (o + f.toNat - (osz + 8) % f.toNat)) % f.toNat := by
        rw [leastPad, Nat.add_mod_mod, Nat.mod_add_mod]
    _ = o % f.toNat := by
        rw [Nat.add_sub_cancel' (by omega), Nat.add_mod_right]

section running
variable {s : State} (hf : s.fault = false)
include hf

theorem endsWith_cfgGet (sel : Word) : EndsWith (.cfgGet sel) s (ownStatus s (.cfgGet sel)) := by
  refine endsWith_ite (fun hsel => ?_) fun hsel => ⟨_, exec_cfgGet_unassigned hf (config_eq_none hsel), rfl⟩
  change sel.toNat ∈ (selectorTable s).map (·.1) at hsel
  obtain ⟨⟨_, v⟩, hmem, rfl⟩ := List.mem_map.mp hsel
  exact ⟨_, exec_cfgGet_assigned hf (config_of_mem_selectorTable hmem), rfl⟩

theorem endsWith_wbWrite (a b : Word) : EndsWith (.wbWrite a b) s (ownStatus s (.wbWrite a b)) :=
  endsWith_ite (fun hb => ⟨_, exec_wbWrite_badByte hf a hb, rfl⟩) fun hb =>
    endsWith_ite (fun ha => ⟨_, exec_wbWrite_outside hf (Nat.le_of_not_lt hb) ha, rfl⟩) fun ha =>
      ⟨_, exec_wbWrite_inside hf (Nat.le_of_not_lt hb) (Nat.lt_of_not_le ha), rfl⟩

theorem endsWith_wbRead (a : Word) : EndsWith (.wbRead a) s (ownStatus s (.wbRead a)) :=
  endsWith_ite (fun ha => ⟨_, exec_wbRead_outside hf ha, rfl⟩) fun ha =>
    ⟨_, exec_wbRead_inside hf (Nat.lt_of_not_le ha), rfl⟩

theorem endsWith_ofCalcpad (f o : Byte) : EndsWith (.ofCalcpad f o) s (ownStatus s (.ofCalcpad f o)) :=
  endsWith_ite (fun h0 => ⟨_, exec_ofCalcpad_zeroFactor hf h0 o, rfl⟩) fun h0 =>
    ⟨_, exec_ofCalcpad hf h0 o, rfl⟩

/-- The causes of R104 in its order: the factor, the type tag, the payload's range, the stream's capacity. -/
theorem endsWith_ofAppend (f o ty n : Byte) (a : Word) :
    EndsWith (.ofAppend f o ty n a) s (ownStatus s (.ofAppend f o ty n a)) := by
  refine endsWith_ite (fun h0 => ⟨_, exec_ofAppend_zeroFactor hf h0 o ty n a, rfl⟩) fun h0 => ?_
  refine endsWith_ite (fun hty => ⟨_, exec_ofAppend_reserved hf hty f o n a, rfl⟩) fun hty => ?_
  refine endsWith_ite (fun ha => ⟨_, exec_ofAppend_outside hf h0 hty ha o, rfl⟩) fun ha => ?_
  have hfit := Nat.le_of_not_lt ha
  have hpad := isPad_leastPad s.osb.length o.toNat h0
  exact endsWith_ite (fun hcap => ⟨_, exec_ofAppend_overflow hf hty hfit hpad hcap, rfl⟩) fun hcap =>
    ⟨_, exec_ofAppend_accepted ⟨hf, hpad, hty, hfit, Nat.le_of_not_lt hcap⟩, rfl⟩

theorem endsWith_ofSerialize (a : Word) : EndsWith (.ofSerialize a) s (ownStatus s (.ofSerialize a)) :=
  endsWith_ite (fun ha => ⟨_, exec_ofSerialize_outside hf ha, rfl⟩) fun ha =>
    ⟨_, exec_ofSerialize_inside hf (Nat.le_of_not_lt ha), rfl⟩

theorem endsWith_ofDeserialize (a n : Word) :
    EndsWith (.ofDeserialize a n) s (ownStatus s (.ofDeserialize a n)) :=
  endsWith_ite (fun hn => ⟨_, exec_ofDeserialize_overflow hf a hn, rfl⟩) fun hn =>
    endsWith_ite (fun ha => ⟨_, exec_ofDeserialize_outside hf (Nat.le_of_not_lt hn) ha, rfl⟩) fun ha =>
      ⟨_, exec_ofDeserialize_inside hf (Nat.le_of_not_lt hn) (Nat.le_of_not_lt ha), rfl⟩

theorem endsWith_ofRead (k : Word) : EndsWith (.ofRead k) s (ownStatus s (.ofRead k)) :=
  endsWith_ite (fun hk => ⟨_, exec_ofRead_pastEnd hf hk, rfl⟩) fun hk =>
    ⟨_, exec_ofRead hf (List.getElem?_eq_getElem (Nat.lt_of_not_le hk)), rfl⟩

/-- The chain of R110: the index, Pad1, the length byte, the payload. -/
theorem endsWith_optDecode (k : Word) : EndsWith (.optDecode k) s (ownStatus s (.optDecode k)) := by
  refine endsWith_ite (fun hk => ⟨_, exec_optDecode_pastEnd hf hk, rfl⟩) fun hk => ?_
  refine endsWith_ite (fun hpad => ⟨_, exec_optDecode_pad1 hf hpad, rfl⟩) fun hpad => ?_
  have hty := List.getElem?_eq_getElem (Nat.lt_of_not_le hk)
  have hne : s.osb[k.toNat]'(Nat.lt_of_not_le hk) ≠ s.params.pad1Type := fun heq =>
    hpad (hty.trans (congrArg some heq))
  refine endsWith_ite (fun hlen => ⟨_, exec_optDecode_noLength hf hty hne hlen, rfl⟩) fun hlen => ?_
  have hn := List.getElem?_eq_getElem (Nat.lt_of_not_le hlen)
  rw [hn, Option.getD_some]
  exact endsWith_ite (fun hend => ⟨_, exec_optDecode_shortPayload hf hty hne hn hend, rfl⟩) fun hend =>
    ⟨_, exec_optDecode_element hf hty hne hn (Nat.le_of_not_lt hend), rfl⟩

theorem endsWith_hdrSerialize (a : Word) : EndsWith (.hdrSerialize a) s (ownStatus s (.hdrSerialize a)) :=
  endsWith_ite (fun ha => ⟨_, exec_hdrSerialize_outside hf (Nat.add_assoc _ _ _ ▸ ha), rfl⟩) fun ha =>
    ⟨_, exec_hdrSerialize_inside hf (Nat.add_assoc _ _ _ ▸ Nat.le_of_not_lt ha), rfl⟩

/-- The checks of R124: the header's range, the declared length against the capacity, the declared range. -/
theorem endsWith_hdrDeserialize (a : Word) :
    EndsWith (.hdrDeserialize a) s (ownStatus s (.hdrDeserialize a)) := by
  refine endsWith_ite (fun ha => ⟨_, exec_hdrDeserialize_noHeader hf ha, rfl⟩) fun ha => ?_
  have hfit := Nat.le_of_not_lt ha
  refine endsWith_ite (fun hn => ⟨_, exec_hdrDeserialize_overflow hf hfit hn, rfl⟩) fun hn => ?_
  have hcap := Nat.le_of_not_lt hn
  exact endsWith_ite (fun hend => ⟨_, exec_hdrDeserialize_outside hf hfit hcap hend, rfl⟩) fun hend =>
    ⟨_, exec_hdrDeserialize_inside hf hcap (Nat.le_of_not_lt hend), rfl⟩

theorem endsWith_mbSetmaxlen (n : Word) : EndsWith (.mbSetmaxlen n) s (ownStatus s (.mbSetmaxlen n)) :=
  endsWith_ite (fun h => ⟨_, exec_mbSetmaxlen_inRange hf h, rfl⟩) fun h =>
    ⟨_, exec_mbSetmaxlen_outside hf (by omega), rfl⟩

theorem endsWith_pbSetmaxlen (n : Word) : EndsWith (.pbSetmaxlen n) s (ownStatus s (.pbSetmaxlen n)) :=
  endsWith_ite (fun h => ⟨_, exec_pbSetmaxlen_inRange hf h, rfl⟩) fun h =>
    ⟨_, exec_pbSetmaxlen_outside hf (by omega), rfl⟩

theorem endsWith_nqSetmaxsize (n : Word) : EndsWith (.nqSetmaxsize n) s (ownStatus s (.nqSetmaxsize n)) :=
  endsWith_ite (fun h => ⟨_, exec_nqSetmaxsize_inRange hf h.2, rfl⟩) fun h =>
    ⟨_, exec_nqSetmaxsize_outside hf (by omega), rfl⟩

/-- A running block ends each command with the status of its first failing check. -/
theorem endsWith_ownStatus (i : Instr) : EndsWith i s (ownStatus s i) := by
  cases i
  case sysReset | sysStatus => exact ⟨_, rfl, rfl⟩
  case cfgGet sel => exact endsWith_cfgGet hf sel
  case wbWrite a b => exact endsWith_wbWrite hf a b
  case wbRead a => exact endsWith_wbRead hf a
  case ofCalcpad f o => exact endsWith_ofCalcpad hf f o
  case ofAppend f o ty n a => exact endsWith_ofAppend hf f o ty n a
  case ofSerialize a => exact endsWith_ofSerialize hf a
  case ofDeserialize a n => exact endsWith_ofDeserialize hf a n
  case ofRead k => exact endsWith_ofRead hf k
  case optDecode k => exact endsWith_optDecode hf k
  case hdrSerialize a => exact endsWith_hdrSerialize hf a
  case hdrDeserialize a => exact endsWith_hdrDeserialize hf a
  case mbSetmaxlen n => exact endsWith_mbSetmaxlen hf n
  case pbSetmaxlen n => exact endsWith_pbSetmaxlen hf n
  case nqSetmaxsize n => exact endsWith_nqSetmaxsize hf n
  case mbEnq => exact endsWith_nowStatus hf rfl (mbAdmit_status _ _)
  case mbDeq => exact endsWith_nowStatus hf rfl (mbTake_status _ _)
  case pbEnq => exact endsWith_nowStatus hf rfl (pbAdmit_status _ _ _)
  case pbDeq => exact endsWith_nowStatus hf rfl (pbTake_status _ _ _)
  case nqEnq => exact endsWith_nowStatus hf rfl (by split <;> rfl)
  case nqDeq => exact endsWith_nowStatus hf rfl (nqPop_status _)
  case mbDropnh | mbPurge | mbSize | pbPurge | pbSize | nqCleanup | nqSize =>
    exact endsWith_nowStatus hf rfl rfl
  case mbAlleq | mbNeteq | mbPromeq | mbLinkeq => exact endsWith_of_running hf rfl (mbConsume_status _ _)
  case pbAlleq => exact endsWith_of_running hf rfl (pbConsume_status _ _)
  case nqFindpop => exact endsWith_of_running hf rfl (by split <;> rfl)
  all_goals exact endsWith_of_running hf rfl rfl

end running

/-- The halted test comes before a command's own checks. -/
theorem endsWith_checkOrder (i : Instr) (s : State) :
    EndsWith i s (if s.fault = true ∧ runsHalted i = false then .errHalted else ownStatus s i) := by
  split_ifs with h
  · exact ⟨_, exec_halted h.1 h.2, rfl⟩
  · cases hf : s.fault with
    | false => exact endsWith_ownStatus hf i
    | true =>
      rcases eq_of_runsHalted (i := i) (by simpa [hf] using h) with rfl | rfl <;> exact ⟨_, rfl, rfl⟩

/-- The status of a command does not depend on what the host presents after it. -/
theorem EndsWith.onHost {i : Instr} {s : State} {st : Status} (h : EndsWith i s st) (host : HostSide) :
    EndsWith i (s.onHost host) st := by
  obtain ⟨t, ht, hst⟩ := h
  exact ⟨_, exec_onHost ht host, hst⟩

/-! ## The fault (R207) -/

/-- The two deserialize commands are the only ones to end with the fault, and only when their range leaves WB. -/
theorem wireBounds_cause {i : Instr} {s t : State} (h : exec i s = .next t)
    (hst : t.resp.status = .faultWireBounds) :
    s.fault = false ∧
    ((∃ a n, i = .ofDeserialize a n ∧ s.params.wbSize < a.toNat + n.toNat) ∨
      ∃ a, i = .hdrDeserialize a ∧
        (s.params.wbSize < a.toNat + 8 ∨ s.params.wbSize < a.toNat + 8 + declaredLen s a.toNat)) := by
  rcases exec_outcome h with hok | ⟨st, hbit, -, rfl⟩ | ⟨hf, a, hi, -⟩
  · cases hok.symm.trans hst
  · exact absurd hst (Status.ne_faultWireBounds hbit)
  obtain ⟨u, hu, hown⟩ := endsWith_ownStatus hf i
  obtain rfl : t = u := Host.Outcome.next.inj (h.symm.trans hu)
  rw [hst] at hown
  refine ⟨hf, hi.imp ?_ ?_⟩
  · rintro ⟨n, rfl⟩
    rw [ownStatus] at hown
    split_ifs at hown with hn ha
    exact ⟨a, n, rfl, ha⟩
  · rintro rfl
    rw [ownStatus] at hown
    split_ifs at hown with ha hn hend
    · exact ⟨a, rfl, .inl ha⟩
    · exact ⟨a, rfl, .inr hend⟩

/-! ## Events (R161, R162, R212) -/

/-- The command and the state account for the event. -/
def EventSource (i : Instr) (s : State) : Event → Prop
  | .drop .expired e => e ∈ s.pb ∧ ∃ now, SweepsPassive now i ∧ e.deadline < (now.toNat : Int)
  | .drop .capacity e =>
    e ∈ s.pb ∧ ∃ seg now pkt nhop src dst pid ident foff, i = .pbEnq seg now pkt nhop src dst pid ident foff
  | .dropLink pkt src nhop => i = .pbDroplink pkt nhop src

/-- The eviction reports an entry of the buffer (R162). -/
theorem mem_of_mem_evictEvents {maxLen : Word} {l : List PassiveEntry} {ev : Event}
    (h : ev ∈ evictEvents maxLen l) : ∃ e ∈ l, ev = .drop .capacity e := by
  unfold evictEvents at h
  split at h
  · obtain ⟨e, he, rfl⟩ := List.mem_map.mp h
    exact ⟨e, List.mem_of_mem_take he, rfl⟩
  · cases h

/-- PB.ENQ reports what the sweep reported, and entries of the swept buffer that make room. -/
theorem mem_pbAdmit_events {s : State} {c : PassiveEntry} {evs : List Event} {ev : Event}
    (h : ev ∈ (s.pbAdmit c evs).events) : ev ∈ evs ∨ ∃ e ∈ s.pb, ev = .drop .capacity e := by
  rcases pbAdmit_cases s c evs with ⟨-, hr⟩ | ⟨-, hr⟩ <;> rw [hr] at h
  · exact .inl h
  · exact (List.mem_append.mp h).imp_right mem_of_mem_evictEvents

/-- PB.DEQ reports only what the sweep reported. -/
theorem pbTake_events (s : State) (key : Word) (evs : List Event) : (s.pbTake key evs).events = evs := by
  rcases pbTake_cases s key evs with ⟨_, _, _, -, -, -, h⟩ | ⟨-, h⟩ <;> rw [h] <;> rfl

/-- PB.ALLEQ reports nothing (R166). -/
theorem pbConsume_events (s : State) (p : PassiveEntry → Bool) : (s.pbConsume p).events = [] := by
  rcases pbConsume_cases s p with ⟨_, _, _, -, -, -, h⟩ | ⟨-, h⟩ <;> rw [h] <;> rfl

section events
variable {i : Instr} {s t k : State}

theorem eventSource_expired {now : Dword} (hi : SweepsPassive now i) :
    ∀ ev ∈ s.pbExpiredEvents now, EventSource i s ev := by
  intro ev hev
  obtain ⟨e, he, hpast, rfl⟩ := mem_pbExpiredEvents.mp hev
  exact ⟨he, now, hi, hpast⟩

/-- A command that opens with the clock test emits nothing if it is refused. -/
theorem eventSource_of_sweep {now : Dword}
    (h : s.unlessHalted (if nowLegal now then k else s.raise .errArg) = .next t)
    (hk : ∀ ev ∈ k.events, EventSource i s ev) : ∀ ev ∈ t.events, EventSource i s ev := by
  rcases unlessHalted_cases h with ⟨-, rfl⟩ | ⟨-, rfl⟩
  · simp
  · split
    · exact hk
    · simp

/-- Every event has its source: the sweep of the four sweeping commands, the eviction of PB.ENQ, or PB.DROPLINK. -/
theorem exec_eventSource (h : exec i s = .next t) : ∀ ev ∈ t.events, EventSource i s ev := by
  cases i
  case sysReset => cases h; simp
  case pbEnq seg now pkt nhop src dst pid ident foff =>
    refine eventSource_of_sweep h fun ev hev => ?_
    rcases mem_pbAdmit_events hev with hev | ⟨e, he, rfl⟩
    · exact eventSource_expired (.inl ⟨_, _, _, _, _, _, _, _, rfl⟩) ev hev
    · exact ⟨(pbLive_sublist s now).subset he, _, _, _, _, _, _, _, _, _, rfl⟩
  case pbDeq now key =>
    refine eventSource_of_sweep h ?_
    rw [pbTake_events]
    exact eventSource_expired (.inr (.inl ⟨key, rfl⟩))
  case pbPurge now => exact eventSource_of_sweep h (eventSource_expired (.inr (.inr (.inl rfl))))
  case pbSize now => exact eventSource_of_sweep h (eventSource_expired (.inr (.inr (.inr rfl))))
  case pbAlleq =>
    rcases unlessHalted_cases h with ⟨-, rfl⟩ | ⟨-, rfl⟩
    · simp
    · simp [pbConsume_events]
  all_goals
    rcases exec_events_of_not_passive h (by simp [mayWrite]) with hevs | ⟨_, _, _, hi, hevs⟩
    · simp [hevs]
    · simp [hevs, hi, EventSource]

/-- A command whose status is not OK emits nothing (R212). -/
theorem exec_events_of_not_ok (h : exec i s = .next t) (hst : t.resp.status ≠ .ok) : t.events = [] := by
  rcases exec_outcome h with hok | ⟨st, -, -, rfl⟩ | ⟨-, a, -, rfl⟩
  · exact absurd hok hst
  · rfl
  · rfl

end events

end Sys2Proof.Machine

namespace Sys2Proof.Proofs

open Sys2Proof.Machine Sys2Proof.Spec

/-- Settles O20, by induction on the number of steps. -/
theorem faultSticky : Obligations.FaultSticky := fun n _ => run_halted n

/-- Settles O16: the refusal of a halted block is a bare reply. -/
theorem haltedRefusesAll : Obligations.HaltedRefusesAll := fun _ _ hf hi =>
  completes_of_reply (exec_halted hf hi)

/-- Settles O17: for every descriptor, and so for the descriptor of every command. -/
theorem refusalChangesNothing : Obligations.RefusalChangesNothing := by
  intro s
  have hdesc : ∀ d : Desc, ∃ t, step (s.present d) = .next t ∧ CleanRefusal s t := fun d =>
    (step_present_total s d).imp fun _ h => ⟨h, step_present_cleanRefusal h⟩
  exact ⟨fun i => step_present_of_ok (decode_encode i) s ▸ hdesc (encode i), hdesc⟩

/-- Settles O18: the decoder's test, then the halted test, then the command's own checks. -/
theorem statusFollowsCheckOrder : Obligations.StatusFollowsCheckOrder := by
  intro s d rest hs
  cases hd : decode d with
  | error e =>
    exact ⟨_, (step_of_input hs).trans (step_present_of_error hd _), fun _ => rfl, fun _ hok => nomatch hok⟩
  | ok i =>
    obtain ⟨t, ht, hst⟩ := (endsWith_checkOrder i s).onHost { s.toHostSide with input := rest }
    refine ⟨t, (step_of_input hs).trans ((step_present_of_ok hd _).trans ht), ?_, ?_⟩
    · rintro ⟨_, ⟨⟩⟩
    · rintro _ ⟨⟩
      exact hst

/-- Settles O19: the range tests of the two commands, and the converse from the outcomes and the own checks. -/
theorem faultEffect : Obligations.FaultEffect := by
  refine ⟨fun s a n hf hn ha => ?_, fun s a hf hrange => ?_, fun i s t h hst => wireBounds_cause h hst⟩
  · exact faults_of_raiseWireBounds (exec_ofDeserialize_outside hf hn ha)
  · by_cases ha : s.params.wbSize < a.toNat + 8
    · exact faults_of_raiseWireBounds (exec_hdrDeserialize_noHeader hf ha)
    · obtain ⟨hn, hend⟩ := hrange.resolve_left ha
      exact faults_of_raiseWireBounds (exec_hdrDeserialize_outside hf (Nat.le_of_not_lt ha) hn hend)

/-- Settles O54: each kind of event by its source. -/
theorem eventSources : Obligations.EventSources := fun _ _ _ h =>
  ⟨exec_events_of_not_ok h, fun e he => exec_eventSource h (.drop .expired e) he,
    fun e he => exec_eventSource h (.drop .capacity e) he,
    fun pkt src nhop he => exec_eventSource h (.dropLink pkt src nhop) he⟩

end Sys2Proof.Proofs

/-!
The descriptors of the spec's examples, written out (30_encoding.md R60 to R65).
-/

namespace Sys2Proof.Proofs

/-- Settles O1: each number is the encoding of its command, bit for bit, and the decoder gives back what was
encoded (`decode_eq_ok_iff`). -/
theorem decodeWrittenDescriptors : Obligations.DecodeWrittenDescriptors := by
  simp only [Obligations.DecodeWrittenDescriptors, decode_eq_ok_iff]
  decide

end Sys2Proof.Proofs
